-- ==== Sys2Proof/Word.lean ====
section
/-! DEFINITION. The three bit-vector widths of the CTE block: a byte lane, a register of the port, an operand. -/

namespace Sys2Proof

/-- One byte lane (00_scope.md R10, 20_memory.md R40). -/
abbrev Byte := BitVec 8

/-- One 32-bit register of the port, and one command word (00_scope.md R10: REGW, CMDW). -/
abbrev Word := BitVec 32

/-- A 64-bit operand or result: eight byte lanes (00_scope.md R10: LANES). -/
abbrev Operand := BitVec 64

end Sys2Proof
end

