-- ==== Sys2Proof/Syntax.lean ====
section
/-! DEFINITION. The commands of the block: the 15 rows of opcode_table.json (30_encoding.md R58, R59), the two
alphabet families, and the assembler text of a command. -/

namespace Sys2Proof

/-- The two alphabet families (00_scope.md R2), selected by field A of a command word (30_encoding.md R57). -/
inductive Family where
  /-- A = 0: ROM64, 6-bit indices, groups of 4, raw blocks of 3. -/
  | base64
  /-- A = 1: ROM32, 5-bit indices, groups of 8, raw blocks of 5. -/
  | base32
deriving DecidableEq, Repr

/-- One command (30_encoding.md R59). An operand `r` or `m` is the word's 4-bit count field N, used as is (R57). -/
inductive Instr where
  /-- Clear the result register (40_lookup.md R110). -/
  | clr
  /-- Base64 index to symbol, eight lanes (40_lookup.md R106). -/
  | sym64
  /-- Base32 index to symbol, eight lanes (40_lookup.md R107). -/
  | sym32
  /-- Base64 symbol to index and class, eight lanes (40_lookup.md R108). -/
  | idx64
  /-- Base32 symbol to index and class, eight lanes (40_lookup.md R109). -/
  | idx32
  /-- One Base64 raw block to four indices (41_bitpack.md R126). -/
  | split64
  /-- One Base32 raw block to eight indices (41_bitpack.md R127). -/
  | split32
  /-- Four Base64 indices to one raw block (41_bitpack.md R128). -/
  | join64
  /-- Eight Base32 indices to one raw block (41_bitpack.md R129). -/
  | join32
  /-- Encode `r` raw bytes as one padded Base64 group (42_codec.md R142). -/
  | enc64 (r : BitVec 4)
  /-- Encode `r` raw bytes as one padded Base32 group (42_codec.md R143). -/
  | enc32 (r : BitVec 4)
  /-- Decode one non-final Base64 group (42_codec.md R160). -/
  | dec64
  /-- Decode the final Base64 group, `m` symbols present (42_codec.md R161). -/
  | dec64f (m : BitVec 4)
  /-- Decode one non-final Base32 group (42_codec.md R162). -/
  | dec32
  /-- Decode the final Base32 group, `m` symbols present (42_codec.md R163). -/
  | dec32f (m : BitVec 4)
deriving DecidableEq, Repr

/-- The assembler text of a command: its mnemonic, then its count in decimal where it has one (30_encoding.md R58). -/
def Instr.text : Instr → String
  | .clr => "CLR"
  | .sym64 => "SYM64"
  | .sym32 => "SYM32"
  | .idx64 => "IDX64"
  | .idx32 => "IDX32"
  | .split64 => "SPLIT64"
  | .split32 => "SPLIT32"
  | .join64 => "JOIN64"
  | .join32 => "JOIN32"
  | .enc64 r => "ENC64 " ++ toString r.toNat
  | .enc32 r => "ENC32 " ++ toString r.toNat
  | .dec64 => "DEC64"
  | .dec64f m => "DEC64F " ++ toString m.toNat
  | .dec32 => "DEC32"
  | .dec32f m => "DEC32F " ++ toString m.toNat

end Sys2Proof
end

