-- ==== Sys2Proof/Decode.lean ====
section
/-! DEFINITION. The command word: its fields, the decoder (total on all 2^32 words, an illegal word rejected with
its reason) and the encoder (30_encoding.md R56 to R63). -/

namespace Sys2Proof

/-- Why a word is illegal: the conditions of 30_encoding.md R60, in its order. -/
inductive IllegalWord where
  /-- `RSV != 0`. -/
  | reservedBits
  /-- `FN == 7`. -/
  | reservedFunction
  /-- `FN == 0` and `(A, N, F) != (0, 0, 0)`. -/
  | clrFields
  /-- `FN` in {1, 2, 3, 4} and `(N, F) != (0, 0)`. -/
  | unusedFields
  /-- `FN == 5` and (`F == 1` or `N == 0` or `N > RB`). -/
  | encodeFields
  /-- `FN == 6`, `F == 0` and `N != G`. -/
  | decodeCount
  /-- `FN == 6`, `F == 1` and (`N == 0` or `N > G`). -/
  | decodeFinalCount
deriving DecidableEq, Repr

/-! ## The fields of a word (30_encoding.md R56; 10_state.md R18) -/

/-- FN, bits [2:0]. -/
def cmdFN (c : Word) : BitVec 3 := c.extractLsb' 0 3

/-- A, bit 3. -/
def cmdA (c : Word) : BitVec 1 := c.extractLsb' 3 1

/-- N, bits [7:4]. -/
def cmdN (c : Word) : BitVec 4 := c.extractLsb' 4 4

/-- F, bit 8. -/
def cmdF (c : Word) : BitVec 1 := c.extractLsb' 8 1

/-- RSV, bits [31:9]. -/
def cmdRSV (c : Word) : BitVec 23 := c.extractLsb' 9 23

/-! ## Decoding -/

/-- A command whose word holds no count and no flag: FN 1 to 4 (30_encoding.md R60). -/
def decodePlain (n : BitVec 4) (f : BitVec 1) (i : Instr) : Except IllegalWord Instr :=
  if n = 0#4 ∧ f = 0#1 then .ok i else .error .unusedFields

/-- ENC: F clear and the raw byte count in 1 .. `rb` (30_encoding.md R59, R60). -/
def decodeEncode (rb : Nat) (n : BitVec 4) (f : BitVec 1) (i : Instr) : Except IllegalWord Instr :=
  if f = 0#1 ∧ 1 ≤ n.toNat ∧ n.toNat ≤ rb then .ok i else .error .encodeFields

/-- DEC: the symbol count is `g` in a non-final group, in 1 .. `g` in the final one (30_encoding.md R59, R60). -/
def decodeDecode (g : Nat) (n : BitVec 4) (f : BitVec 1) (whole final : Instr) : Except IllegalWord Instr :=
  if f = 0#1 then
    if n.toNat = g then .ok whole else .error .decodeCount
  else
    if 1 ≤ n.toNat ∧ n.toNat ≤ g then .ok final else .error .decodeFinalCount

/-- The lookup of `(FN, A, N, F)` in the table of legal words (30_encoding.md R59, R61). -/
def decodeFields (fn : BitVec 3) (a : BitVec 1) (n : BitVec 4) (f : BitVec 1) : Except IllegalWord Instr :=
  match fn.toNat with
  | 0 => if a = 0#1 ∧ n = 0#4 ∧ f = 0#1 then .ok .clr else .error .clrFields
  | 1 => decodePlain n f (if a = 0#1 then .sym64 else .sym32)
  | 2 => decodePlain n f (if a = 0#1 then .idx64 else .idx32)
  | 3 => decodePlain n f (if a = 0#1 then .split64 else .split32)
  | 4 => decodePlain n f (if a = 0#1 then .join64 else .join32)
  | 5 => if a = 0#1 then decodeEncode 3 n f (.enc64 n) else decodeEncode 5 n f (.enc32 n)
  | 6 => if a = 0#1 then decodeDecode 4 n f .dec64 (.dec64f n) else decodeDecode 8 n f .dec32 (.dec32f n)
  | _ => .error .reservedFunction

/-- The decoder of a command word (30_encoding.md R59): reserved bits first, then the table. -/
def decode (c : Word) : Except IllegalWord Instr :=
  if cmdRSV c ≠ 0#23 then .error .reservedBits else decodeFields (cmdFN c) (cmdA c) (cmdN c) (cmdF c)

/-- The command `decode` reads from a word numbered as opcode_table.json numbers it: one 32-bit word (30_encoding.md
R63), every bit at and above `nbits` zero. -/
def decodeTableWord (nbits w : Nat) : Option Instr :=
  if nbits ≤ 32 then (decode (BitVec.ofNat 32 (w % 2 ^ nbits))).toOption else none

/-! ## Encoding -/

/-- A word from its fields, RSV zero: `RRRRRRRRRRRRRRRRRRRRRRR F NNNN A FFF` (30_encoding.md R56). -/
def commandWord (fn : BitVec 3) (a : BitVec 1) (n : BitVec 4) (f : BitVec 1) : Word :=
  0#23 ++ f ++ n ++ a ++ fn

/-- The word of a command: its row of the table of legal words (30_encoding.md R59). -/
def encode : Instr → Word
  | .clr => commandWord 0 0 0 0
  | .sym64 => commandWord 1 0 0 0
  | .sym32 => commandWord 1 1 0 0
  | .idx64 => commandWord 2 0 0 0
  | .idx32 => commandWord 2 1 0 0
  | .split64 => commandWord 3 0 0 0
  | .split32 => commandWord 3 1 0 0
  | .join64 => commandWord 4 0 0 0
  | .join32 => commandWord 4 1 0 0
  | .enc64 r => commandWord 5 0 r 0
  | .enc32 r => commandWord 5 1 r 0
  | .dec64 => commandWord 6 0 4 0
  | .dec64f m => commandWord 6 0 m 1
  | .dec32 => commandWord 6 1 8 0
  | .dec32f m => commandWord 6 1 m 1

end Sys2Proof
end

