-- ==== Sys2Proof/Config.lean ====
section
/-! DEFINITION. What an implementation of the block fixes (00_scope.md R10, 92_eei_decisions.md): the OPEN
parameters BASE and LAT, of which nothing is known but their constraint, and the fixed sizes of the window.
The other OPEN parameters bear on no rule of the block (log 17) or are an argument of the host's decode. -/

namespace Sys2Proof.Config

/-- OPEN parameter LAT, less one (00_scope.md R10: an integer at least 1). It has no body: no proof can see its value (log 2). -/
opaque latMinusOne : Nat

/-- OPEN parameter LAT: the issue-to-completion latency in clock cycles, the same for every word
(70_reset_and_hazards.md R202). -/
def LAT : Nat := latMinusOne + 1

/-- OPEN parameter BASE, divided by 64 (00_scope.md R10: 64-byte aligned). It has no body (log 3). -/
opaque baseIndex : Nat

/-- OPEN parameter BASE: the window's base in the host's address space (20_memory.md R43). -/
def BASE : Nat := 64 * baseIndex

/-- WINDOW: the register window's size in bytes (00_scope.md R10). -/
def WINDOW : Nat := 64

end Sys2Proof.Config
end

