-- ==== Sys2Proof/Machine/State.lean ====
section
/-! DEFINITION. The state of one CTE instance (10_state.md R15), the outcomes that stop the model, and the state right
after reset (10_state.md R34). -/

namespace Sys2Proof.Machine

/-- The error class of the completed command, STATUS.ERR (10_state.md R23): the two error classes of the source and OK.
Code 3 is never produced, so it has no name (ID17). -/
inductive ErrClass where
  /-- Code 0. -/
  | ok
  /-- Code 1: a lane is neither an alphabet symbol nor the pad. -/
  | invalidEncodingChar
  /-- Code 2: the padding count, placement, length or ghost bits are wrong. -/
  | badPadding
deriving DecidableEq, Repr

/-- One host access presented on the port: a byte offset in the window (20_memory.md R43, R54) and a size in bytes.
Only size 4 at a multiple of 4 is defined by the spec (20_memory.md R45). -/
inductive HostAccess where
  /-- `HostRead(off)` (00_scope.md R12). -/
  | read (off size : Nat)
  /-- `HostWrite(off, v)` (00_scope.md R12). -/
  | write (off size : Nat) (v : Word)
deriving DecidableEq, Repr

/-- What the block's inputs carry in one clock cycle: whether this is a cycle of reset (the cycle in which reset is
deasserted counts as one, 70_reset_and_hazards.md R200, log 6) and at most one host access (R203). -/
structure PortCycle where
  reset : Bool
  access : Option HostAccess
deriving DecidableEq, Repr

/-- The complete state of one instance (10_state.md R15), and the two fields of the model's own (log 4, 5). -/
structure State where
  /-- CMD, the last accepted command word (10_state.md R18). -/
  cmd : Word
  /-- STATUS.BUSY (10_state.md R20). -/
  busy : Bool
  /-- STATUS.DONE (10_state.md R21). -/
  done : Bool
  /-- STATUS.ILL (10_state.md R22). -/
  ill : Bool
  /-- STATUS.ERR (10_state.md R23). -/
  err : ErrClass
  /-- STATUS.COUNT (10_state.md R24). -/
  count : BitVec 4
  /-- STATUS.OVR (10_state.md R26). -/
  ovr : Bool
  /-- STATUS.CLASS, two bits a lane (10_state.md R25). -/
  cls : BitVec 16
  /-- IN_LO, operand lanes 0 to 3 (10_state.md R29). -/
  inLo : Word
  /-- IN_HI, operand lanes 4 to 7 (10_state.md R29). -/
  inHi : Word
  /-- OUT_LO, result lanes 0 to 3 (10_state.md R31). -/
  outLo : Word
  /-- OUT_HI, result lanes 4 to 7 (10_state.md R31). -/
  outHi : Word
  /-- LCMD, the command word latched at issue; hidden (10_state.md R32). -/
  lcmd : Word
  /-- LIN, the operand latched at issue; hidden (10_state.md R32). -/
  lin : Operand
  /-- CNT, the cycles left until completion; hidden (10_state.md R15, R32). -/
  cnt : Nat
  /-- The model's own: what the port will carry, one entry a clock cycle, the next cycle first (log 4). -/
  port : List PortCycle
  /-- The model's own: the words host reads have returned, oldest first (log 5). -/
  answers : List Word
deriving DecidableEq, Repr

/-- Why the model stops with a fault. No command and no access of the block raises one (60_exceptions.md R182). -/
inductive Fault where
  /-- Raised by a port cycle that carries an access at an offset outside the 64-byte window, which is no access of the
  block (20_memory.md R43, R44). Safe: the model stops where the platform goes on (log 8). -/
  | outsideWindow (off : Nat)
deriving DecidableEq, Repr

/-- What the model refuses. -/
inductive Refusal where
  /-- Raised by an arm of exec without a meaning; none is left. Safe: the model stops. -/
  | notModelled (mnemonic : String)
  /-- Raised by a port cycle that carries an access inside the window that is not 32 bits wide or not at a multiple of
  4: OPEN parameter NARROW_ACCESS, "A model refuses such an access" (20_memory.md R45). Safe (log 7). -/
  | narrowAccess (off size : Nat)
deriving DecidableEq, Repr

/-- The machine right after reset: every register 0 (10_state.md R34, 70_reset_and_hazards.md R200), nothing presented on
the port and nothing answered yet (log 4, 5). -/
def State.reset : State where
  cmd := 0
  busy := false
  done := false
  ill := false
  err := .ok
  count := 0
  ovr := false
  cls := 0
  inLo := 0
  inHi := 0
  outLo := 0
  outHi := 0
  lcmd := 0
  lin := 0
  cnt := 0
  port := []
  answers := []

end Sys2Proof.Machine
end

