-- ==== Sys2Proof/Machine/Ops.lean ====
section
/-! DEFINITION. The named operations every command and every access is written over: the byte lanes of an operand, the
result of a command and the two error results, and the register updates of issue, drop, completion, reset and answer. -/

namespace Sys2Proof.Machine

/-! ## Lanes (20_memory.md R40, 00_scope.md R12) -/

/-- Lane `i` of an operand or result: bits `[8i+7:8i]`. -/
def lane (v : Operand) (i : Nat) : Byte := v.extractLsb' (8 * i) 8

/-- The operand whose lane `i` is `f i`, for the eight lanes. -/
def ofLanes (f : Nat → Byte) : Operand := f 7 ++ f 6 ++ f 5 ++ f 4 ++ f 3 ++ f 2 ++ f 1 ++ f 0

/-- Lanes 0 to 3, the LO register's half. -/
def lowWord (v : Operand) : Word := v.extractLsb' 0 32

/-- Lanes 4 to 7, the HI register's half. -/
def highWord (v : Operand) : Word := v.extractLsb' 32 32

/-- `{IN_HI, IN_LO}`, the operand register (10_state.md R16). -/
def State.operand (s : State) : Operand := s.inHi ++ s.inLo

/-- `{OUT_HI, OUT_LO}`, the result register (10_state.md R16). -/
def State.out (s : State) : Operand := s.outHi ++ s.outLo

/-! ## Results (00_scope.md R13) -/

/-- The class of a lane (10_state.md R25, 00_scope.md R14). -/
inductive LaneClass where
  /-- Code 0: a member of the alphabet. -/
  | valid
  /-- Code 1: the pad byte. -/
  | pad
  /-- Code 2: neither. -/
  | invalid
  /-- Code 3: a DEC lane at or beyond the group's symbol count, not examined. -/
  | absent
deriving DecidableEq, Repr

/-- What a command computes: `(OUT', ILL', ERR', COUNT', CLASS')` (00_scope.md R13). -/
structure Result where
  out : Operand
  ill : Bool
  err : ErrClass
  count : BitVec 4
  cls : BitVec 16
deriving DecidableEq, Repr

/-- A result without an error and without classes: `f` in the lanes, `n` of them meaningful. -/
def Result.lanes (f : Nat → Byte) (n : Nat) : Result where
  out := ofLanes f
  ill := false
  err := .ok
  count := BitVec.ofNat 4 n
  cls := 0

/-- `raise ILL`: the result of an illegal command word (60_exceptions.md R180). -/
def Result.illegal : Result where
  out := 0
  ill := true
  err := .ok
  count := 0
  cls := 0

/-- `fail e`: the result of a failed decode, its classes kept (60_exceptions.md R181). -/
def Result.failed (e : ErrClass) (cls : BitVec 16) : Result where
  out := 0
  ill := false
  err := e
  count := 0
  cls := cls

/-- The result of a command term: that of an illegal word where the term's count has no legal word (30_encoding.md R60,
log 11). -/
def Result.ofLegal (legal : Bool) (r : Result) : Result := if legal then r else .illegal

/-! ## Register updates -/

/-- Issue: an accepted write of CMD, all in one step (10_state.md R27). -/
def State.issue (s : State) (v : Word) : State :=
  { s with cmd := v, lcmd := v, lin := s.operand, cnt := Config.LAT, busy := true, done := false, ovr := false }

/-- A dropped write of CMD: nothing but OVR changes (10_state.md R28). -/
def State.dropIssue (s : State) : State := { s with ovr := true }

/-- Completion: every result field, BUSY and DONE in one step; CNT has counted down to 0 (10_state.md R30). -/
def State.complete (s : State) (r : Result) : State :=
  { s with
    outLo := lowWord r.out, outHi := highWord r.out, ill := r.ill, err := r.err, count := r.count, cls := r.cls,
    busy := false, done := true, cnt := 0 }

/-- One clock cycle of the latency counter (10_state.md R32). -/
def State.countDown (s : State) : State := { s with cnt := s.cnt - 1 }

/-- Every register at its reset value, a command in flight abandoned (70_reset_and_hazards.md R200); the two fields of
the model's own stay. -/
def State.clearRegisters (s : State) : State := { State.reset with port := s.port, answers := s.answers }

/-- A read's answer, handed to the host (log 5). -/
def State.answer (s : State) (v : Word) : State := { s with answers := s.answers ++ [v] }

end Sys2Proof.Machine
end

