-- ==== Sys2Proof/Machine/Operands.lean ====
section
/-! DEFINITION. Operand forms: what field A of a word selects (30_encoding.md R57), the two alphabets and their lookups
(40_lookup.md R100 to R104), and the packing functions (41_bitpack.md R120 to R125). -/

namespace Sys2Proof

/-- W, the index width in bits (00_scope.md R10). -/
def Family.width : Family → Nat
  | .base64 => 6
  | .base32 => 5

/-- G, the symbols of a group (00_scope.md R10). -/
def Family.groupSize : Family → Nat
  | .base64 => 4
  | .base32 => 8

/-- RB, the raw bytes of a block (00_scope.md R10). -/
def Family.rawBytes : Family → Nat
  | .base64 => 3
  | .base32 => 5

end Sys2Proof

namespace Sys2Proof.Machine

/-! ## The alphabets -/

/-- ROM64: the symbol of each index, the table of 40_lookup.md R101. -/
def rom64 : List Byte :=
  [0x41, 0x42, 0x43, 0x44, 0x45, 0x46, 0x47, 0x48, 0x49, 0x4A, 0x4B, 0x4C, 0x4D, 0x4E, 0x4F, 0x50]
  ++ [0x51, 0x52, 0x53, 0x54, 0x55, 0x56, 0x57, 0x58, 0x59, 0x5A, 0x61, 0x62, 0x63, 0x64, 0x65, 0x66]
  ++ [0x67, 0x68, 0x69, 0x6A, 0x6B, 0x6C, 0x6D, 0x6E, 0x6F, 0x70, 0x71, 0x72, 0x73, 0x74, 0x75, 0x76]
  ++ [0x77, 0x78, 0x79, 0x7A, 0x30, 0x31, 0x32, 0x33, 0x34, 0x35, 0x36, 0x37, 0x38, 0x39, 0x2B, 0x2F]

/-- ROM32: the symbol of each index, the table of 40_lookup.md R102. -/
def rom32 : List Byte :=
  [0x41, 0x42, 0x43, 0x44, 0x45, 0x46, 0x47, 0x48, 0x49, 0x4A, 0x4B, 0x4C, 0x4D, 0x4E, 0x4F, 0x50]
  ++ [0x51, 0x52, 0x53, 0x54, 0x55, 0x56, 0x57, 0x58, 0x59, 0x5A, 0x32, 0x33, 0x34, 0x35, 0x36, 0x37]

/-- The pad symbol, '=' (40_lookup.md R101). -/
def padByte : Byte := 0x3D

/-- Index to symbol, Base64 (40_lookup.md R101). -/
def sym64 (i : BitVec 6) : Byte := rom64.getD i.toNat 0

/-- Index to symbol, Base32 (40_lookup.md R102). -/
def sym32 (i : BitVec 5) : Byte := rom32.getD i.toNat 0

/-- Symbol to class and index, Base64 (40_lookup.md R103). -/
def classify64 (b : Byte) : LaneClass × BitVec 6 :=
  if 0x41 ≤ b ∧ b ≤ 0x5A then (.valid, (b - 0x41).setWidth 6)
  else if 0x61 ≤ b ∧ b ≤ 0x7A then (.valid, (b - 0x61 + 26).setWidth 6)
  else if 0x30 ≤ b ∧ b ≤ 0x39 then (.valid, (b - 0x30 + 52).setWidth 6)
  else if b = 0x2B then (.valid, 62)
  else if b = 0x2F then (.valid, 63)
  else if b = padByte then (.pad, 0)
  else (.invalid, 0)

/-- Symbol to class and index, Base32 (40_lookup.md R104). -/
def classify32 (b : Byte) : LaneClass × BitVec 5 :=
  if 0x41 ≤ b ∧ b ≤ 0x5A then (.valid, (b - 0x41).setWidth 5)
  else if 0x32 ≤ b ∧ b ≤ 0x37 then (.valid, (b - 0x32 + 26).setWidth 5)
  else if b = padByte then (.pad, 0)
  else (.invalid, 0)

/-- The symbol of a lane's index: its low W bits, the bits above ignored (40_lookup.md R106, R107). -/
def symbol : Family → Byte → Byte
  | .base64, b => sym64 (b.extractLsb' 0 6)
  | .base32, b => sym32 (b.extractLsb' 0 5)

/-- The class of a lane and its index, zero-extended to a lane (40_lookup.md R108, R109). -/
def classify : Family → Byte → LaneClass × Byte
  | .base64, b => ((classify64 b).1, (classify64 b).2.setWidth 8)
  | .base32, b => ((classify32 b).1, (classify32 b).2.setWidth 8)

/-! ## Packing: most significant bit first (41_bitpack.md R120) -/

/-- The 24-bit group value of three bytes, the first most significant (41_bitpack.md R122). -/
def rawValue64 (b : Nat → Byte) : BitVec 24 := b 0 ++ b 1 ++ b 2

/-- The 40-bit group value of five bytes, the first most significant (41_bitpack.md R123). -/
def rawValue32 (b : Nat → Byte) : BitVec 40 := b 0 ++ b 1 ++ b 2 ++ b 3 ++ b 4

/-- Index `k` of three bytes (41_bitpack.md R122). -/
def pack64 (b : Nat → Byte) (k : Nat) : BitVec 6 :=
  match k with
  | 0 => (rawValue64 b).extractLsb' 18 6
  | 1 => (rawValue64 b).extractLsb' 12 6
  | 2 => (rawValue64 b).extractLsb' 6 6
  | 3 => (rawValue64 b).extractLsb' 0 6
  | _ => 0

/-- Index `k` of five bytes (41_bitpack.md R123). -/
def pack32 (b : Nat → Byte) (k : Nat) : BitVec 5 :=
  match k with
  | 0 => (rawValue32 b).extractLsb' 35 5
  | 1 => (rawValue32 b).extractLsb' 30 5
  | 2 => (rawValue32 b).extractLsb' 25 5
  | 3 => (rawValue32 b).extractLsb' 20 5
  | 4 => (rawValue32 b).extractLsb' 15 5
  | 5 => (rawValue32 b).extractLsb' 10 5
  | 6 => (rawValue32 b).extractLsb' 5 5
  | 7 => (rawValue32 b).extractLsb' 0 5
  | _ => 0

/-- The 24-bit group value of four indices, the first most significant (41_bitpack.md R124). -/
def indexValue64 (s : Nat → BitVec 6) : BitVec 24 := s 0 ++ s 1 ++ s 2 ++ s 3

/-- The 40-bit group value of eight indices, the first most significant (41_bitpack.md R125). -/
def indexValue32 (s : Nat → BitVec 5) : BitVec 40 := s 0 ++ s 1 ++ s 2 ++ s 3 ++ s 4 ++ s 5 ++ s 6 ++ s 7

/-- Byte `j` of four indices (41_bitpack.md R124). -/
def unpack64 (s : Nat → BitVec 6) (j : Nat) : Byte :=
  match j with
  | 0 => (indexValue64 s).extractLsb' 16 8
  | 1 => (indexValue64 s).extractLsb' 8 8
  | 2 => (indexValue64 s).extractLsb' 0 8
  | _ => 0

/-- Byte `j` of eight indices (41_bitpack.md R125). -/
def unpack32 (s : Nat → BitVec 5) (j : Nat) : Byte :=
  match j with
  | 0 => (indexValue32 s).extractLsb' 32 8
  | 1 => (indexValue32 s).extractLsb' 24 8
  | 2 => (indexValue32 s).extractLsb' 16 8
  | 3 => (indexValue32 s).extractLsb' 8 8
  | 4 => (indexValue32 s).extractLsb' 0 8
  | _ => 0

/-- Index `k` of a raw block, zero-extended to a lane: 0 beyond the group. -/
def pack : Family → (Nat → Byte) → Nat → Byte
  | .base64, b, k => (pack64 b k).setWidth 8
  | .base32, b, k => (pack32 b k).setWidth 8

/-- Byte `j` of a group of indices, only the low W bits of each used: 0 beyond the raw block. -/
def unpack : Family → (Nat → Byte) → Nat → Byte
  | .base64, s, j => unpack64 (fun k => (s k).extractLsb' 0 6) j
  | .base32, s, j => unpack32 (fun k => (s k).extractLsb' 0 5) j

end Sys2Proof.Machine
end

