-- ==== Sys2Proof/Machine/Flags.lean ====
section
/-! DEFINITION. The STATUS register's word and codes (10_state.md R19 to R26), and the checks that decide ERR and COUNT:
the length tables and the analysis of a decoded group (42_codec.md R141, R144, R150 to R155). -/

namespace Sys2Proof.Machine

/-! ## Codes and layout of STATUS -/

/-- The ERR code (10_state.md R23). -/
def ErrClass.code : ErrClass → BitVec 2
  | .ok => 0
  | .invalidEncodingChar => 1
  | .badPadding => 2

/-- The error class a host reads from an ERR code; code 3 is never produced (10_state.md R23). -/
def ErrClass.ofCode (c : BitVec 2) : ErrClass :=
  if c = 1 then .invalidEncodingChar else if c = 2 then .badPadding else .ok

/-- The CLASS code of a lane (10_state.md R25). -/
def LaneClass.code : LaneClass → BitVec 2
  | .valid => 0
  | .pad => 1
  | .invalid => 2
  | .absent => 3

/-- CLASS: lane `i`'s code at bits `[2i+1:2i]` of the field (10_state.md R25). -/
def packClasses (f : Nat → LaneClass) : BitVec 16 :=
  (f 7).code ++ (f 6).code ++ (f 5).code ++ (f 4).code ++ (f 3).code ++ (f 2).code ++ (f 1).code ++ (f 0).code

/-- The word a read of STATUS returns, most significant field first; bits 15:10 read 0 (10_state.md R19). -/
def State.statusWord (s : State) : Word :=
  s.cls ++ 0#6 ++ BitVec.ofBool s.ovr ++ s.count ++ s.err.code ++ BitVec.ofBool s.ill ++ BitVec.ofBool s.done
    ++ BitVec.ofBool s.busy

/-! ## Length tables -/

/-- `k(r)`, the data symbols of a raw block of `r` bytes: `⌈8r / W⌉` (42_codec.md R141). -/
def dataSymbols (A : Family) (r : Nat) : Nat := (8 * r + A.width - 1) / A.width

/-- `b(k)`, the bytes of `k` data symbols: `⌊W·k / 8⌋` (42_codec.md R144). -/
def decodedBytes (A : Family) (k : Nat) : Nat := A.width * k / 8

/-- `g(k)`, the ghost bits of the last of `k` data symbols (42_codec.md R144). -/
def ghostBits (A : Family) (k : Nat) : Nat := A.width * k - 8 * decodedBytes A k

/-- The mask of the ghost bits on the last index (42_codec.md R144). -/
def ghostMask (A : Family) (k : Nat) : Byte := BitVec.ofNat 8 (2 ^ ghostBits A k - 1)

/-- The set K: the legal numbers of data symbols in a final group (42_codec.md R144). -/
def legalCounts : Family → List Nat
  | .base64 => [4, 3, 2]
  | .base32 => [8, 7, 5, 4, 2]

/-! ## The checks of IDX and DEC -/

/-- Some lane below `m` is INVALID (40_lookup.md R108, 42_codec.md R152). -/
def anyInvalid (m : Nat) (cls : Nat → LaneClass) : Bool := (List.range m).any fun j => cls j == .invalid

/-- `k`, the number of leading VALID lanes below `m` (42_codec.md R150, R153). -/
def leadingValid (m : Nat) (cls : Nat → LaneClass) : Nat :=
  ((List.range m).takeWhile fun j => cls j == .valid).length

/-- Every present lane from `k` on is PAD (42_codec.md R153). -/
def padPlacement (m k : Nat) (cls : Nat → LaneClass) : Bool :=
  (List.range m).all fun j => decide (j < k) || cls j == .pad

/-- The number of data symbols is legal for the group's position and form (42_codec.md R154). -/
def padCount (A : Family) (final : Bool) (m k : Nat) : Bool :=
  if final then
    if m = A.groupSize then decide (k ∈ legalCounts A) else decide (k = m ∧ k ∈ legalCounts A)
  else decide (k = A.groupSize)

/-- The ghost bits of the last data symbol are zero (42_codec.md R155). -/
def ghostClear (A : Family) (k : Nat) (idx : Nat → Byte) : Bool :=
  decide (k ∈ legalCounts A ∧ idx (k - 1) &&& ghostMask A k = 0)

end Sys2Proof.Machine
end

