-- ==== Sys2Proof/Machine/Bitpack.lean ====
section
/-! DEFINITION. The bit-packing commands: SPLIT64, SPLIT32, JOIN64, JOIN32 (41_bitpack.md R126 to R129). -/

namespace Sys2Proof.Machine

/-- SPLIT of family `A`: the indices of the raw block in lanes 0 .. RB-1, in lanes 0 .. G-1 (41_bitpack.md R126, R127). -/
def splitBlock (A : Family) (L : Operand) : Result := .lanes (pack A (lane L)) A.groupSize

/-- JOIN of family `A`: the raw block of the indices in lanes 0 .. G-1, each masked to W bits (41_bitpack.md R128, R129). -/
def joinBlock (A : Family) (L : Operand) : Result := .lanes (unpack A (lane L)) A.rawBytes

/-! ## Meanings -/

/-- SPLIT64 (41_bitpack.md R126). -/
def execSplit64 (s : State) : Host.Outcome State Fault Refusal := .next (s.complete (splitBlock .base64 s.lin))

/-- SPLIT32 (41_bitpack.md R127). -/
def execSplit32 (s : State) : Host.Outcome State Fault Refusal := .next (s.complete (splitBlock .base32 s.lin))

/-- JOIN64 (41_bitpack.md R128). -/
def execJoin64 (s : State) : Host.Outcome State Fault Refusal := .next (s.complete (joinBlock .base64 s.lin))

/-- JOIN32 (41_bitpack.md R129). -/
def execJoin32 (s : State) : Host.Outcome State Fault Refusal := .next (s.complete (joinBlock .base32 s.lin))

end Sys2Proof.Machine
end

