-- ==== Sys2Proof/WellFormed.lean ====
section
/-! DEFINITION. Which command terms stand for a legal word: the ranges of the count operand (30_encoding.md R59). -/

namespace Sys2Proof

/-- The count operand lies in the range 30_encoding.md R59 gives its mnemonic. -/
def Instr.wf : Instr → Bool
  | .enc64 r => decide (1 ≤ r.toNat ∧ r.toNat ≤ 3)
  | .enc32 r => decide (1 ≤ r.toNat ∧ r.toNat ≤ 5)
  | .dec64f m => decide (1 ≤ m.toNat ∧ m.toNat ≤ 4)
  | .dec32f m => decide (1 ≤ m.toNat ∧ m.toNat ≤ 8)
  | .clr => true
  | .sym64 => true
  | .sym32 => true
  | .idx64 => true
  | .idx32 => true
  | .split64 => true
  | .split32 => true
  | .join64 => true
  | .join32 => true
  | .dec64 => true
  | .dec32 => true

/-- `i` is a command the opcode table has. -/
abbrev WellFormed (i : Instr) : Prop := i.wf = true

end Sys2Proof
end

