-- ==== Sys2Proof/Machine/Codec.lean ====
section
/-! DEFINITION. The group codec commands: ENC64, ENC32 (42_codec.md R142, R143) and DEC64, DEC64F, DEC32, DEC32F
(42_codec.md R150 to R163). -/

namespace Sys2Proof.Machine

/-! ## Encode -/

/-- Index `j` of a raw block of `r` bytes, zero filled beyond them (42_codec.md R142, R143). -/
def blockIndex (A : Family) (r : Nat) (L : Operand) (j : Nat) : Byte :=
  pack A (fun i => if i < r then lane L i else 0) j

/-- Lane `j` of an encoded group: the symbols that carry data, then pads, then nothing beyond the group (42_codec.md
R142, R143). -/
def encodedLane (A : Family) (r : Nat) (sym : Nat → Byte) (j : Nat) : Byte :=
  if j < A.groupSize then (if j < dataSymbols A r then sym j else padByte) else 0

/-- The result of ENC from the symbols its lookups give. -/
def encodeResult (A : Family) (r : Nat) (sym : Nat → Byte) : Result := .lanes (encodedLane A r sym) A.groupSize

/-- ENC of `r` raw bytes of family `A` on an operand. -/
def encodeBlock (A : Family) (r : Nat) (L : Operand) : Result :=
  encodeResult A r fun j => symbol A (blockIndex A r L j)

/-! ## Decode -/

/-- The class of lane `j`: looked up below `m`, ABSENT from there on (42_codec.md R151). -/
def presentClass (m : Nat) (look : Nat → LaneClass × Byte) (j : Nat) : LaneClass :=
  if j < m then (look j).1 else .absent

/-- The index of lane `j`: looked up below `m`, 0 from there on (42_codec.md R150). -/
def presentIndex (m : Nat) (look : Nat → LaneClass × Byte) (j : Nat) : Byte :=
  if j < m then (look j).2 else 0

/-- The result of a decode that succeeds with `k` data symbols (42_codec.md R157). -/
def decodeSuccess (A : Family) (k : Nat) (idx : Nat → Byte) (cls : BitVec 16) : Result where
  out := ofLanes fun j =>
    if j < decodedBytes A k then unpack A (fun i => if i < k then idx i else 0) j else 0
  ill := false
  err := .ok
  count := BitVec.ofNat 4 (decodedBytes A k)
  cls := cls

/-- The result of DEC from the classes and indices its lookups give: `decode_group` of 42_codec.md R150, with
InvalidEncodingChar before BadPadding (60_exceptions.md R184). -/
def decodeResult (A : Family) (final : Bool) (m : Nat) (look : Nat → LaneClass × Byte) : Result :=
  let cls := presentClass m look
  let idx := presentIndex m look
  let k := leadingValid m cls
  if anyInvalid m cls then .failed .invalidEncodingChar (packClasses cls)
  else if padPlacement m k cls && padCount A final m k && ghostClear A k idx then
    decodeSuccess A k idx (packClasses cls)
  else .failed .badPadding (packClasses cls)

/-- `decode_group(A, F, M, L)` (42_codec.md R150). -/
def decodeGroup (A : Family) (final : Bool) (m : Nat) (L : Operand) : Result :=
  decodeResult A final m fun j => classify A (lane L j)

/-! ## Meanings -/

/-- ENC64 r (42_codec.md R142). -/
def execEnc64 (r : BitVec 4) (s : State) : Host.Outcome State Fault Refusal :=
  .next (s.complete (.ofLegal (Instr.enc64 r).wf (encodeBlock .base64 r.toNat s.lin)))

/-- ENC32 r (42_codec.md R143). -/
def execEnc32 (r : BitVec 4) (s : State) : Host.Outcome State Fault Refusal :=
  .next (s.complete (.ofLegal (Instr.enc32 r).wf (encodeBlock .base32 r.toNat s.lin)))

/-- DEC64 (42_codec.md R160). -/
def execDec64 (s : State) : Host.Outcome State Fault Refusal :=
  .next (s.complete (decodeGroup .base64 false 4 s.lin))

/-- DEC64F m (42_codec.md R161). -/
def execDec64f (m : BitVec 4) (s : State) : Host.Outcome State Fault Refusal :=
  .next (s.complete (.ofLegal (Instr.dec64f m).wf (decodeGroup .base64 true m.toNat s.lin)))

/-- DEC32 (42_codec.md R162). -/
def execDec32 (s : State) : Host.Outcome State Fault Refusal :=
  .next (s.complete (decodeGroup .base32 false 8 s.lin))

/-- DEC32F m (42_codec.md R163). -/
def execDec32f (m : BitVec 4) (s : State) : Host.Outcome State Fault Refusal :=
  .next (s.complete (.ofLegal (Instr.dec32f m).wf (decodeGroup .base32 true m.toNat s.lin)))

end Sys2Proof.Machine
end

