-- ==== Sys2Proof/Machine/Lookup.lean ====
section
/-! DEFINITION. The lookup commands: CLR, SYM64, SYM32, IDX64, IDX32 (40_lookup.md R106 to R110). -/

namespace Sys2Proof.Machine

/-- The result of SYM from the symbols its eight lookups give (40_lookup.md R106, R107). -/
def symResult (sym : Nat → Byte) : Result := .lanes sym 8

/-- SYM of family `A` on an operand. -/
def symLanes (A : Family) (L : Operand) : Result := symResult fun i => symbol A (lane L i)

/-- The result of IDX from the classes and indices its eight lookups give: OUT and CLASS in full, ERR set by an INVALID
lane, a PAD lane no error (40_lookup.md R108, R109). -/
def idxResult (look : Nat → LaneClass × Byte) : Result where
  out := ofLanes fun i => (look i).2
  ill := false
  err := if anyInvalid 8 fun i => (look i).1 then .invalidEncodingChar else .ok
  count := 8
  cls := packClasses fun i => (look i).1

/-- IDX of family `A` on an operand. -/
def idxLanes (A : Family) (L : Operand) : Result := idxResult fun i => classify A (lane L i)

/-- CLR (40_lookup.md R110). -/
def clearResult : Result := .lanes (fun _ => 0) 0

/-! ## Meanings -/

/-- CLR (40_lookup.md R110). -/
def execClr (s : State) : Host.Outcome State Fault Refusal := .next (s.complete clearResult)

/-- SYM64 (40_lookup.md R106). -/
def execSym64 (s : State) : Host.Outcome State Fault Refusal := .next (s.complete (symLanes .base64 s.lin))

/-- SYM32 (40_lookup.md R107). -/
def execSym32 (s : State) : Host.Outcome State Fault Refusal := .next (s.complete (symLanes .base32 s.lin))

/-- IDX64 (40_lookup.md R108). -/
def execIdx64 (s : State) : Host.Outcome State Fault Refusal := .next (s.complete (idxLanes .base64 s.lin))

/-- IDX32 (40_lookup.md R109). -/
def execIdx32 (s : State) : Host.Outcome State Fault Refusal := .next (s.complete (idxLanes .base32 s.lin))

end Sys2Proof.Machine
end

