-- ==== Sys2Proof/Machine/Dispatch.lean ====
section
/-! DEFINITION. One arm per command: the meaning of each, what the engine writes at its completion. -/

namespace Sys2Proof.Machine

-- The effect of a command at its completion (10_state.md R30).
def exec (i : Instr) (s : State) : Host.Outcome State Fault Refusal :=
  match i with
  | .clr => Sys2Proof.Machine.execClr s
  | .sym64 => Sys2Proof.Machine.execSym64 s
  | .sym32 => Sys2Proof.Machine.execSym32 s
  | .idx64 => Sys2Proof.Machine.execIdx64 s
  | .idx32 => Sys2Proof.Machine.execIdx32 s
  | .split64 => Sys2Proof.Machine.execSplit64 s
  | .split32 => Sys2Proof.Machine.execSplit32 s
  | .join64 => Sys2Proof.Machine.execJoin64 s
  | .join32 => Sys2Proof.Machine.execJoin32 s
  | .enc64 r => Sys2Proof.Machine.execEnc64 r s
  | .enc32 r => Sys2Proof.Machine.execEnc32 r s
  | .dec64 => Sys2Proof.Machine.execDec64 s
  | .dec64f m => Sys2Proof.Machine.execDec64f m s
  | .dec32 => Sys2Proof.Machine.execDec32 s
  | .dec32f m => Sys2Proof.Machine.execDec32f m s

end Sys2Proof.Machine
end

