-- ==== Sys2Proof/Machine/Port.lean ====
section
/-! DEFINITION. The register port: the address map, one host access, and one cycle of reset (20_memory.md R43 to R49,
10_state.md R18 to R31, 70_reset_and_hazards.md R200). -/

namespace Sys2Proof.Machine

/-! ## The window and its registers -/

/-- The named registers of the window (20_memory.md R44). -/
inductive Reg where
  | cmd
  | status
  | inLo
  | inHi
  | outLo
  | outHi
deriving DecidableEq, Repr

/-- A register's offset in the window (20_memory.md R44). -/
def Reg.offset : Reg → Nat
  | .cmd => 0x00
  | .status => 0x04
  | .inLo => 0x08
  | .inHi => 0x0C
  | .outLo => 0x10
  | .outHi => 0x14

/-- The window offset of a host address, none outside the window (20_memory.md R43). -/
def windowOffset (addr : Nat) : Option Nat :=
  if Config.BASE ≤ addr ∧ addr < Config.BASE + Config.WINDOW then some (addr - Config.BASE) else none

/-- What a 32-bit read at an offset returns: reserved offsets read 0 (20_memory.md R44). -/
def State.readReg (s : State) (off : Nat) : Word :=
  match off with
  | 0x00 => s.cmd
  | 0x04 => s.statusWord
  | 0x08 => s.inLo
  | 0x0C => s.inHi
  | 0x10 => s.outLo
  | 0x14 => s.outHi
  | _ => 0

/-- What a 32-bit write at an offset does: CMD issues, or is dropped while BUSY; IN_LO and IN_HI are replaced; every
other write is ignored (20_memory.md R44, 10_state.md R27 to R31). -/
def State.writeReg (s : State) (off : Nat) (v : Word) : State :=
  match off with
  | 0x00 => if s.busy then s.dropIssue else s.issue v
  | 0x08 => { s with inLo := v }
  | 0x0C => { s with inHi := v }
  | _ => s

/-! ## One access -/

/-- An access at `off` of `size` bytes answers `s` where the spec defines it: inside the window, 32 bits wide, at a
multiple of 4 (20_memory.md R43, R45; log 7, 8). -/
def definedAccess (off size : Nat) (s : State) : Host.Outcome State Fault Refusal :=
  if Config.WINDOW ≤ off then .fault (.outsideWindow off)
  else if size = 4 ∧ off % 4 = 0 then .next s
  else .refused (.narrowAccess off size)

/-- The host access of a cycle outside reset: a read answers and changes no register, a write acts on its register
(20_memory.md R47). -/
def portAccess (a : Option HostAccess) (s : State) : Host.Outcome State Fault Refusal :=
  match a with
  | none => .next s
  | some (.read off size) => definedAccess off size (s.answer (s.readReg off))
  | some (.write off size v) => definedAccess off size (s.writeReg off v)

/-- A cycle of reset: every register at its reset value, host writes without effect, host reads answered 0
(70_reset_and_hazards.md R200). -/
def resetCycle (a : Option HostAccess) (s : State) : Host.Outcome State Fault Refusal :=
  match a with
  | none => .next s.clearRegisters
  | some (.read off size) => definedAccess off size (s.clearRegisters.answer 0)
  | some (.write off size _) => definedAccess off size s.clearRegisters

end Sys2Proof.Machine
end

