-- ==== Sys2Proof/Machine/Cycle.lean ====
section
/-! DEFINITION. One clock cycle of the block (70_reset_and_hazards.md R200 to R203, 10_state.md R30): the host access of
the cycle, then the engine. -/

namespace Sys2Proof.Machine

/-- The engine's step at the end of CNT: the latched word runs, an illegal one with the result of 60_exceptions.md R180
(10_state.md R30). -/
def engineComplete (s : State) : Host.Outcome State Fault Refusal :=
  match decode s.lcmd with
  | .ok i => exec i s
  | .error _ => .next (s.complete .illegal)

/-- One cycle of the engine with a command in flight: CNT counts down, and the cycle in which it reaches 0 completes
the command (10_state.md R30, R32; 70_reset_and_hazards.md R202; log 1, 10). -/
def engineCycle (s : State) : Host.Outcome State Fault Refusal :=
  if s.cnt ≤ 1 then engineComplete s else .next s.countDown

/-- One clock cycle with inputs `c`. The access sees the registers as the cycle begins; the engine works in the cycles
that begin with BUSY = 1, so a command issued in this cycle counts from the next (70_reset_and_hazards.md R202). -/
def clockCycle (c : PortCycle) (s : State) : Host.Outcome State Fault Refusal :=
  if c.reset then resetCycle c.access s
  else
    match portAccess c.access s with
    | .next s' => if s.busy then engineCycle s' else .next s'
    | .fault f => .fault f
    | .refused r => .refused r

/-- The inputs of a cycle in which the host does nothing. -/
def idleCycle : PortCycle := ⟨false, none⟩

end Sys2Proof.Machine
end

