-- ==== Sys2Proof/Machine/Step.lean ====
section
/-! DEFINITION. The step of the machine, one clock cycle, and the placing of a command word where the next step runs it. -/

namespace Sys2Proof.Machine

/-- One clock cycle: the next entry of the port's list, or an idle cycle where none is left (log 1, 4). -/
def step (s : State) : Host.Outcome State Fault Refusal :=
  match s.port with
  | [] => clockCycle idleCycle s
  | c :: rest => clockCycle c { s with port := rest }

/-- `s` with the word issued and its latency run down, so that the very next step, an idle cycle, completes it. It is
what an accepted issue (10_state.md R27) and LAT - 1 idle cycles leave (log 9). -/
def State.withFetchWord (s : State) (nbits w : Nat) : State :=
  { s.issue (BitVec.ofNat 32 (w % 2 ^ nbits)) with cnt := 1, port := idleCycle :: s.port }

end Sys2Proof.Machine
end

