-- ==== Sys2Proof/Machine/HostAgent.lean ====
section
/-! DEFINITION. The host side (surrounding software, 00_scope.md R7): the host notation as port accesses (30_encoding.md
R58, R64) and the reference encode and decode sequences run over the block (42_codec.md R170 to R175; log 18). -/

namespace Sys2Proof.Machine

/-- Why a host program of the model stops without a value. -/
inductive HostStop where
  /-- The output buffer is smaller than 42_codec.md R175 asks for: "a model refuses such a call". Safe. -/
  | capacity
  /-- WAIT polled LAT + 1 times and BUSY was still 1; it does not happen (30_encoding.md R64). Safe. -/
  | waitExhausted
  /-- A cycle faulted. -/
  | fault (f : Fault)
  /-- A cycle was refused. -/
  | refused (r : Refusal)
deriving DecidableEq, Repr

/-- A host program's end: its value and the block as it left it, or a stop. -/
inductive HostRun (α : Type) where
  | ok (value : α) (s : State)
  | stop (why : HostStop)
deriving DecidableEq, Repr

/-- One host program after another. -/
def HostRun.bind {α β : Type} (x : HostRun α) (f : α → State → HostRun β) : HostRun β :=
  match x with
  | .ok a s => f a s
  | .stop w => .stop w

/-! ## The host notation (30_encoding.md R58, R64) -/

/-- The block with an access presented on its port in the next cycle. -/
def State.presenting (s : State) (a : HostAccess) : State := { s with port := ⟨false, some a⟩ :: s.port }

/-- One host access, in one clock cycle. -/
def hostAccess (a : HostAccess) (s : State) : HostRun Unit :=
  match step (s.presenting a) with
  | .next s' => .ok () s'
  | .fault f => .stop (.fault f)
  | .refused r => .stop (.refused r)

/-- `WR reg, v`. -/
def hostWrite (r : Reg) (v : Word) (s : State) : HostRun Unit := hostAccess (.write r.offset 4 v) s

/-- `RD reg -> var`: the value is the word the block answered. -/
def hostRead (r : Reg) (s : State) : HostRun Word :=
  (hostAccess (.read r.offset 4) s).bind fun _ s' => .ok (s'.answers.getLastD 0) s'

/-- `ISSUE command`: `WR CMD, <word of command>`. -/
def hostIssue (i : Instr) (s : State) : HostRun Unit := hostWrite .cmd (encode i) s

/-- `WAIT`, at most `n` polls: read STATUS until bit 0 is 0. -/
def hostWaitFor : Nat → State → HostRun Unit
  | 0, _ => .stop .waitExhausted
  | n + 1, s => (hostRead .status s).bind fun st s' => if st.getLsbD 0 then hostWaitFor n s' else .ok () s'

/-- `WAIT`: after an accepted issue BUSY reads 1 in LAT cycles and 0 in the next (70_reset_and_hazards.md R202). -/
def hostWait (s : State) : HostRun Unit := hostWaitFor (Config.LAT + 1) s

/-- Write the operand, issue, wait: what the reference sequences do for each group. -/
def hostRun (i : Instr) (L : Operand) (s : State) : HostRun Unit :=
  (hostWrite .inLo (lowWord L) s).bind fun _ s1 =>
    (hostWrite .inHi (highWord L) s1).bind fun _ s2 =>
      (hostIssue i s2).bind fun _ s3 => hostWait s3

/-- `RD OUT_LO -> lo ; RD OUT_HI -> hi`: the value `{hi, lo}`. -/
def hostReadOut (s : State) : HostRun Operand :=
  (hostRead .outLo s).bind fun lo s1 => (hostRead .outHi s1).bind fun hi s2 => .ok (hi ++ lo : Operand) s2

/-! ## Commands by family -/

/-- `ENC<A> r`. -/
def encodeInstr (A : Family) (r : Nat) : Instr :=
  match A with
  | .base64 => .enc64 (BitVec.ofNat 4 r)
  | .base32 => .enc32 (BitVec.ofNat 4 r)

/-- `DEC<A>`. -/
def decodeInstr : Family → Instr
  | .base64 => .dec64
  | .base32 => .dec32

/-- `DEC<A>F m`. -/
def decodeFinalInstr (A : Family) (m : Nat) : Instr :=
  match A with
  | .base64 => .dec64f (BitVec.ofNat 4 m)
  | .base32 => .dec32f (BitVec.ofNat 4 m)

/-- `ENC64`, `ENC32` without a count: a full raw block (30_encoding.md R64). -/
def encodeDefault (A : Family) : Instr := encodeInstr A A.rawBytes

/-- `DEC64F`, `DEC32F` without a count: a full group (30_encoding.md R64). -/
def decodeFinalDefault (A : Family) : Instr := decodeFinalInstr A A.groupSize

/-! ## Sizes -/

/-- `⌈n / d⌉`. -/
def ceilDiv (n d : Nat) : Nat := (n + d - 1) / d

/-- `encoded_max_size(n) = ⌈n / RB⌉ · G` (42_codec.md R172). -/
def encodedMaxSize (A : Family) (n : Nat) : Nat := ceilDiv n A.rawBytes * A.groupSize

/-- `decoded_max_size(e) = ⌊W · e / 8⌋` (42_codec.md R173). -/
def decodedMaxSize (A : Family) (e : Nat) : Nat := A.width * e / 8

/-! ## The reference sequences -/

/-- The operand with `bytes` in its first lanes and in the others "any bytes", those of `fill`, lane by lane (42_codec.md
R170, R171). -/
def lanesOf (bytes : List Byte) (fill : Nat → Byte) : Operand := ofLanes fun i => bytes.getD i (fill i)

/-- The first `n` lanes of a result, in order. -/
def firstLanes (n : Nat) (v : Operand) : List Byte := (List.range n).map (lane v)

/-- The block loop of encode over `q` blocks of the bytes left; `fill q` gives the unused lanes of a block with `q` more
to come (42_codec.md R170). -/
def encodeBlocks (A : Family) (fill : Nat → Nat → Byte) : Nat → List Byte → State → HostRun (List Byte)
  | 0, _, s => .ok [] s
  | q + 1, raw, s =>
    (hostRun (encodeInstr A (min A.rawBytes raw.length)) (lanesOf (raw.take A.rawBytes) (fill q)) s).bind fun _ s1 =>
      (hostReadOut s1).bind fun v s2 =>
        (encodeBlocks A fill q (raw.drop A.rawBytes) s2).bind fun rest s3 =>
          .ok (firstLanes A.groupSize v ++ rest) s3

/-- `encode(A, raw, out)`: the bytes written to the caller's buffer, whose capacity it is given (42_codec.md R170,
R175). -/
def hostEncode (A : Family) (fill : Nat → Nat → Byte) (raw : List Byte) (capacity : Nat) (s : State) :
    HostRun (List Byte) :=
  if capacity < encodedMaxSize A raw.length then .stop .capacity
  else encodeBlocks A fill (ceilDiv raw.length A.rawBytes) raw s

/-- What decode returns to its caller: the bytes written to the buffer, or an error and nothing written (42_codec.md
R171, R174). -/
inductive CallResult where
  | written (bytes : List Byte)
  | error (kind : ErrClass)
deriving DecidableEq, Repr

/-- The group loop of decode over `q` groups of the symbols left: every group is run, the first failing group's class
kept, the bytes staged; `fill q` gives the unused lanes of a group with `q` more to come (42_codec.md R171). -/
def decodeGroups (A : Family) (fill : Nat → Nat → Byte) :
    Nat → List Byte → ErrClass → List Byte → State → HostRun (ErrClass × List Byte)
  | 0, _, err, stage, s => .ok (err, stage) s
  | q + 1, enc, err, stage, s =>
    let i := if q = 0 then decodeFinalInstr A enc.length else decodeInstr A
    (hostRun i (lanesOf (enc.take A.groupSize) (fill q)) s).bind fun _ s1 =>
      (hostRead .status s1).bind fun st s2 =>
        (hostReadOut s2).bind fun v s3 =>
          decodeGroups A fill q (enc.drop A.groupSize)
            (if err = .ok then .ofCode (st.extractLsb' 3 2) else err)
            (stage ++ firstLanes (st.extractLsb' 5 4).toNat v) s3

/-- `decode(A, enc, out)` with the host parameter HOST_REQUIRE_PAD and the capacity of the caller's buffer: decode every
group, scrub OUT with CLR, and give out the stage only on success (42_codec.md R171, R174, R175). -/
def hostDecode (A : Family) (fill : Nat → Nat → Byte) (requirePad : Bool) (enc : List Byte) (capacity : Nat)
    (s : State) :
    HostRun CallResult :=
  if capacity < decodedMaxSize A enc.length then .stop .capacity
  else if enc = [] then .ok (.written []) s
  else if requirePad = true ∧ enc.length % A.groupSize ≠ 0 then .ok (.error .badPadding) s
  else
    (decodeGroups A fill (ceilDiv enc.length A.groupSize) enc .ok [] s).bind fun r s1 =>
      (hostIssue .clr s1).bind fun _ s2 =>
        (hostWait s2).bind fun _ s3 =>
          .ok (if r.1 = .ok then .written r.2 else .error r.1) s3

end Sys2Proof.Machine
end

