-- ==== Sys2Proof/Machine/Command.lean ====
section
/-! DEFINITION. The pure function `exec(c, L)` of 00_scope.md R13: the result of a command, and of any command word, as a
function of the operand alone. -/

namespace Sys2Proof.Machine

/-- The result of a command on an operand (00_scope.md R13). -/
def commandResult (i : Instr) (L : Operand) : Result :=
  match i with
  | .clr => clearResult
  | .sym64 => symLanes .base64 L
  | .sym32 => symLanes .base32 L
  | .idx64 => idxLanes .base64 L
  | .idx32 => idxLanes .base32 L
  | .split64 => splitBlock .base64 L
  | .split32 => splitBlock .base32 L
  | .join64 => joinBlock .base64 L
  | .join32 => joinBlock .base32 L
  | .enc64 r => .ofLegal (Instr.enc64 r).wf (encodeBlock .base64 r.toNat L)
  | .enc32 r => .ofLegal (Instr.enc32 r).wf (encodeBlock .base32 r.toNat L)
  | .dec64 => decodeGroup .base64 false 4 L
  | .dec64f m => .ofLegal (Instr.dec64f m).wf (decodeGroup .base64 true m.toNat L)
  | .dec32 => decodeGroup .base32 false 8 L
  | .dec32f m => .ofLegal (Instr.dec32f m).wf (decodeGroup .base32 true m.toNat L)

/-- The result of any command word on an operand: total, an illegal word giving the result of 60_exceptions.md R180
(00_scope.md R13, 30_encoding.md R60). -/
def wordResult (c : Word) (L : Operand) : Result :=
  match decode c with
  | .ok i => commandResult i L
  | .error _ => .illegal

end Sys2Proof.Machine
end

