-- ==== Sys2Proof/Machine/Trace.lean ====
section
/-! DEFINITION. The constant-time structure of the block (40_lookup.md R105, R111; 42_codec.md R140;
70_reset_and_hazards.md R201): the two permitted lookup structures, the checks of a group as terms all of which are
evaluated, every command written over them with the units it exercises, and the observable trace of a command word
(log 14). -/

namespace Sys2Proof.Machine

/-- The alphabet table of a family. -/
def rom : Family → List Byte
  | .base64 => rom64
  | .base32 => rom32

/-- `M(x)`: all ones if `x`, else 0, in the width of what it masks (40_lookup.md R105). -/
def mask {n : Nat} (x : Bool) : BitVec n := if x then BitVec.allOnes n else 0

/-! ## Parallel compare, with the comparisons made -/

/-- A comparator of a lookup unit (40_lookup.md R105). -/
inductive Comparison where
  /-- The comparator of table entry `j`. -/
  | entry (j : Nat)
  /-- The comparator of the pad byte, in a unit that classifies. -/
  | pad
deriving DecidableEq, Repr

/-- `sym(ROM, W, i)` over the entries from `j` on: every entry is compared, the matching one OR-ed in (40_lookup.md
R105). The second part lists the comparisons made. -/
def symScan (i : Nat) : Nat → List Byte → Byte × List Comparison
  | _, [] => (0, [])
  | j, e :: es =>
    let rest := symScan i (j + 1) es
    ((mask (i == j) &&& e) ||| rest.1, .entry j :: rest.2)

/-- The hit bit, the index and the comparisons made, over the entries from `j` on (40_lookup.md R105). -/
def indexScan (b : Byte) : Nat → List Byte → (Bool × Byte) × List Comparison
  | _, [] => ((false, 0), [])
  | j, e :: es =>
    let rest := indexScan b (j + 1) es
    (((b == e) || rest.1.1, (mask (b == e) &&& BitVec.ofNat 8 j) ||| rest.1.2), .entry j :: rest.2)

/-- The comparison with the pad byte, made whether or not an entry hit (40_lookup.md R105). -/
def padScan (b : Byte) : Bool × List Comparison := (b == padByte, [.pad])

/-- The class from the hit bit and the pad bit: a 2-bit mux, no branch (40_lookup.md R105). -/
def classOf (hit pad : Bool) : LaneClass :=
  match hit, pad with
  | true, true => .valid
  | true, false => .valid
  | false, true => .pad
  | false, false => .invalid

/-- The symbol of a lane by parallel compare over the whole table of its family. -/
def symbolScan (A : Family) (b : Byte) : Byte × List Comparison := symScan (b.toNat % 2 ^ A.width) 0 (rom A)

/-- The class and index of a lane by parallel compare: `classify(ROM, W, b)`, all the entries and then the pad byte
(40_lookup.md R105). -/
def classifyScan (A : Family) (b : Byte) : (LaneClass × Byte) × List Comparison :=
  let scan := indexScan b 0 (rom A)
  let pad := padScan b
  ((classOf scan.1.1 pad.1, scan.1.2), scan.2 ++ pad.2)

/-! ## Range selection (40_lookup.md R105), modulo 256 -/

/-- `sym64(i)` by range selection. -/
def symRange64 (i : Byte) : Byte :=
  (mask (decide (i ≤ 25)) &&& (i + 0x41)) ||| (mask (decide (26 ≤ i ∧ i ≤ 51)) &&& (i + 0x47))
    ||| (mask (decide (52 ≤ i ∧ i ≤ 61)) &&& (i - 0x04)) ||| (mask (i == 62) &&& 0x2B) ||| (mask (i == 63) &&& 0x2F)

/-- `sym32(i)` by range selection. -/
def symRange32 (i : Byte) : Byte :=
  (mask (decide (i ≤ 25)) &&& (i + 0x41)) ||| (mask (decide (26 ≤ i ∧ i ≤ 31)) &&& (i + 0x18))

/-- The Base64 classifier by range selection on the byte. -/
def classifyRange64 (b : Byte) : LaneClass × Byte :=
  let upper := decide (0x41 ≤ b ∧ b ≤ 0x5A)
  let lower := decide (0x61 ≤ b ∧ b ≤ 0x7A)
  let digit := decide (0x30 ≤ b ∧ b ≤ 0x39)
  let plus := b == 0x2B
  let slash := b == 0x2F
  (classOf (upper || lower || digit || plus || slash) (b == padByte),
    (mask upper &&& (b - 0x41)) ||| (mask lower &&& (b - 0x47)) ||| (mask digit &&& (b + 0x04))
      ||| (mask plus &&& 62) ||| (mask slash &&& 63))

/-- The Base32 classifier by range selection on the byte. -/
def classifyRange32 (b : Byte) : LaneClass × Byte :=
  let upper := decide (0x41 ≤ b ∧ b ≤ 0x5A)
  let digit := decide (0x32 ≤ b ∧ b ≤ 0x37)
  (classOf (upper || digit) (b == padByte), (mask upper &&& (b - 0x41)) ||| (mask digit &&& (b - 0x18)))

/-! ## The checks of a group, every term evaluated (42_codec.md R140, R150) -/

/-- One term of the checks of IDX and DEC. -/
inductive GroupCheck where
  /-- Lane `lane` is INVALID (40_lookup.md R108; 42_codec.md R152). -/
  | invalid (lane : Nat)
  /-- The lanes up to `lane` are all VALID: `k` counts these (42_codec.md R150). -/
  | leading (lane : Nat)
  /-- Lane `lane` is below `k` or PAD (42_codec.md R153). -/
  | placement (lane : Nat)
  /-- `k` is `symbols`, a legal count for the group's position and form (42_codec.md R154). -/
  | count (symbols : Nat)
  /-- `k` is `symbols` and the ghost bits of its last index are zero (42_codec.md R155). -/
  | ghost (symbols : Nat)
deriving DecidableEq, Repr

/-- A list of evaluated terms, each with its outcome. -/
abbrev Terms := List (GroupCheck × Bool)

/-- The OR of all the terms. -/
def anyTerm (ts : Terms) : Bool := ts.foldr (fun t acc => t.2 || acc) false

/-- The AND of all the terms. -/
def allTerms (ts : Terms) : Bool := ts.foldr (fun t acc => t.2 && acc) true

/-- How many of the terms hold. -/
def sumTerms (ts : Terms) : Nat := ts.foldr (fun t acc => t.2.toNat + acc) 0

/-- The terms of the INVALID check, one a present lane (42_codec.md R152). -/
def invalidTerms (m : Nat) (cls : Nat → LaneClass) : Terms :=
  (List.range m).map fun j => (.invalid j, cls j == .invalid)

/-- The terms whose sum is `k`, one a present lane (42_codec.md R150). -/
def leadingTerms (m : Nat) (cls : Nat → LaneClass) : Terms :=
  (List.range m).map fun j => (.leading j, (List.range (j + 1)).all fun i => cls i == .valid)

/-- The terms of the placement check, one a present lane (42_codec.md R153). -/
def placementTerms (m k : Nat) (cls : Nat → LaneClass) : Terms :=
  (List.range m).map fun j => (.placement j, decide (j < k) || cls j == .pad)

/-- The counts `k` is compared with, from the command's fields alone (42_codec.md R154). -/
def countTargets (A : Family) (final : Bool) (m : Nat) : List Nat :=
  if final then (if m = A.groupSize then legalCounts A else [m]) else [A.groupSize]

/-- The terms of the count check (42_codec.md R154). -/
def countTerms (A : Family) (final : Bool) (m k : Nat) : Terms :=
  (countTargets A final m).map fun n => (.count n, k == n && decide (n ∈ legalCounts A))

/-- The terms of the ghost check, one a legal count (42_codec.md R155). -/
def ghostTerms (A : Family) (k : Nat) (idx : Nat → Byte) : Terms :=
  (legalCounts A).map fun n => (.ghost n, k == n && idx (n - 1) &&& ghostMask A n == 0)

/-- The result of a decode selected by masks from the outcomes of its checks (42_codec.md R140, R150): `inv` the INVALID
check, `good` the other three, `success` what R157 gives for `k`. -/
def selectDecode (inv good : Bool) (success : Result) : Result where
  out := mask (!inv && good) &&& success.out
  ill := false
  err := .ofCode ((mask inv &&& 1) ||| (mask (!inv && !good) &&& 2))
  count := mask (!inv && good) &&& success.count
  cls := success.cls

/-! ## The units a command exercises -/

/-- One unit at work: a comparator of a lane's lookup unit, or a term of the checks. -/
inductive Probe where
  /-- The lookup unit of `lane` makes a comparison. -/
  | compare (lane : Nat) (comparison : Comparison)
  /-- A term of the checks of IDX or DEC is evaluated. -/
  | check (term : GroupCheck)
deriving DecidableEq, Repr

/-- The comparisons the lookup units of lanes 0 .. `n-1` make. -/
def probesOf (n : Nat) (comparisons : Nat → List Comparison) : List Probe :=
  (List.range n).flatMap fun j => (comparisons j).map (Probe.compare j)

/-- The evaluation of a list of terms. -/
def checksOf (ts : Terms) : List Probe := ts.map fun t => .check t.1

/-- SYM by scanning lookups: all eight lanes. -/
def symProbed (A : Family) (L : Operand) : Result × List Probe :=
  (symResult fun j => (symbolScan A (lane L j)).1, probesOf 8 fun j => (symbolScan A (lane L j)).2)

/-- IDX by scanning lookups: all eight lanes, and the INVALID term of each (40_lookup.md R108, R109). -/
def idxProbed (A : Family) (L : Operand) : Result × List Probe :=
  let look := fun j => (classifyScan A (lane L j)).1
  let inv := invalidTerms 8 fun j => (look j).1
  ({ idxResult look with err := .ofCode (mask (anyTerm inv) &&& 1) },
    (probesOf 8 fun j => (classifyScan A (lane L j)).2) ++ checksOf inv)

/-- ENC by scanning lookups: every one of the G symbol lanes is looked up, pads or not (42_codec.md R140, R142). -/
def encodeProbed (A : Family) (r : Nat) (L : Operand) : Result × List Probe :=
  (encodeResult A r fun j => (symbolScan A (blockIndex A r L j)).1,
    probesOf A.groupSize fun j => (symbolScan A (blockIndex A r L j)).2)

/-- DEC by scanning lookups: every one of the `m` present lanes is classified, every term of every check of 42_codec.md
R152 to R155 is evaluated whatever the others give, and the result is selected by masks (42_codec.md R140). -/
def decodeProbed (A : Family) (final : Bool) (m : Nat) (L : Operand) : Result × List Probe :=
  let look := fun j => (classifyScan A (lane L j)).1
  let cls := presentClass m look
  let idx := presentIndex m look
  let inv := invalidTerms m cls
  let leading := leadingTerms m cls
  let k := sumTerms leading
  let place := placementTerms m k cls
  let count := countTerms A final m k
  let ghost := ghostTerms A k idx
  (selectDecode (anyTerm inv) (allTerms place && anyTerm count && anyTerm ghost)
      (decodeSuccess A k idx (packClasses cls)),
    (probesOf m fun j => (classifyScan A (lane L j)).2) ++ checksOf (inv ++ leading ++ place ++ count ++ ghost))

/-- A term without a legal word looks nothing up (60_exceptions.md R180). -/
def probedIfLegal (legal : Bool) (p : Result × List Probe) : Result × List Probe :=
  if legal then p else (.illegal, [])

/-- A command by scanning lookups, with the comparisons it makes. -/
def commandProbed (i : Instr) (L : Operand) : Result × List Probe :=
  match i with
  | .clr => (clearResult, [])
  | .sym64 => symProbed .base64 L
  | .sym32 => symProbed .base32 L
  | .idx64 => idxProbed .base64 L
  | .idx32 => idxProbed .base32 L
  | .split64 => (splitBlock .base64 L, [])
  | .split32 => (splitBlock .base32 L, [])
  | .join64 => (joinBlock .base64 L, [])
  | .join32 => (joinBlock .base32 L, [])
  | .enc64 r => probedIfLegal (Instr.enc64 r).wf (encodeProbed .base64 r.toNat L)
  | .enc32 r => probedIfLegal (Instr.enc32 r).wf (encodeProbed .base32 r.toNat L)
  | .dec64 => decodeProbed .base64 false 4 L
  | .dec64f m => probedIfLegal (Instr.dec64f m).wf (decodeProbed .base64 true m.toNat L)
  | .dec32 => decodeProbed .base32 false 8 L
  | .dec32f m => probedIfLegal (Instr.dec32f m).wf (decodeProbed .base32 true m.toNat L)

/-- Any command word by scanning lookups; an illegal one examines no lane (60_exceptions.md R180). -/
def wordProbed (c : Word) (L : Operand) : Result × List Probe :=
  match decode c with
  | .ok i => commandProbed i L
  | .error _ => (.illegal, [])

/-- The values STATUS.BUSY takes as the next `n` cycles begin, none past a stop (70_reset_and_hazards.md R201). -/
def busySequence : Nat → State → List Bool
  | 0, _ => []
  | n + 1, s =>
    s.busy ::
      match step s with
      | .next t => busySequence n t
      | .fault _ => []
      | .refused _ => []

/-- The observable trace of a command (40_lookup.md R111; 70_reset_and_hazards.md R201): BUSY cycle by cycle, and the
comparators, table entries and check terms the engine exercises. -/
structure CommandTrace where
  busy : List Bool
  probes : List Probe
deriving DecidableEq, Repr

/-- The latency a trace shows: its cycles with BUSY 1 (70_reset_and_hazards.md R202). -/
def CommandTrace.latency (t : CommandTrace) : Nat := (t.busy.filter id).length

/-- The trace of word `c` issued through the port from `s`, on the operand IN holds there, over `n` cycles, the cycle of
the issue the first and the later ones idle. -/
def observableTrace (n : Nat) (c : Word) (s : State) : CommandTrace where
  busy := busySequence n { s with port := [⟨false, some (.write 0x00 4 c)⟩] }
  probes := (wordProbed c s.operand).2

end Sys2Proof.Machine
end

