-- ==== Sys2Proof/Safety.lean ====
section
/-! DEFINITION. What the claims about a run are said in: the machine's invariant, the accesses the spec defines, and the
agreement of two states on everything but data. -/

namespace Sys2Proof.Machine

/-- The result registers as one result: OUT, ILL, ERR, COUNT, CLASS. -/
def State.result (s : State) : Result := ⟨s.out, s.ill, s.err, s.count, s.cls⟩

/-- What holds of every state the block can be in (10_state.md R20, R21, R23, R24, R32, R35). -/
structure State.Inv (s : State) : Prop where
  /-- BUSY = 1 and DONE = 1 never happen together (R21). -/
  exclusive : ¬(s.busy = true ∧ s.done = true)
  /-- A command in flight has 1 to LAT cycles left. -/
  counting : s.busy = true → 1 ≤ s.cnt ∧ s.cnt ≤ Config.LAT
  /-- With none in flight CNT is 0. -/
  counted : s.busy = false → s.cnt = 0
  /-- LCMD is the word CMD shows (R32). -/
  latched : s.lcmd = s.cmd
  /-- After a completion the result registers hold the results of the command whose word CMD holds, on the operand
  latched at its issue (R21, R35). -/
  results : s.done = true → s.result = wordResult s.cmd s.lin
  /-- BUSY = 0 and DONE = 0 only after reset and before the first issue (R21). -/
  fresh : s.busy = false → s.done = false →
    s.cmd = 0 ∧ s.lin = 0 ∧ s.ovr = false ∧ s.result = State.reset.result
  /-- ERR is 0 whenever ILL is 1 (R23). -/
  illOk : s.ill = true → s.err = .ok
  /-- COUNT is at most 8 (R24). -/
  countLe : s.count.toNat ≤ 8
  /-- OUT lanes at and above COUNT hold 0 (R24). -/
  lanesBeyond : ∀ i, i < 8 → s.count.toNat ≤ i → lane s.out i = 0

/-- The offset and size of an access are defined by the spec: in the window, 32 bits, aligned (20_memory.md R43, R45). -/
def HostAccess.Defined : HostAccess → Prop
  | .read off size => off < Config.WINDOW ∧ size = 4 ∧ off % 4 = 0
  | .write off size _ => off < Config.WINDOW ∧ size = 4 ∧ off % 4 = 0

/-- A port cycle carries no access or a defined one. -/
def PortCycle.Defined (c : PortCycle) : Prop := ∀ a, c.access = some a → a.Defined

/-- Two accesses that differ at most in a value written to a register other than CMD: the data of a host program. -/
def HostAccess.SameShape : HostAccess → HostAccess → Prop
  | .read off size, .read off' size' => off = off' ∧ size = size'
  | .write off size v, .write off' size' v' => off = off' ∧ size = size' ∧ (off = 0 → v = v')
  | _, _ => False

/-- Two port cycles of one shape. -/
def PortCycle.SameShape (c d : PortCycle) : Prop :=
  c.reset = d.reset ∧
    match c.access, d.access with
    | none, none => True
    | some a, some b => a.SameShape b
    | _, _ => False

/-- Two states that differ at most in data: operands, results and their classes, and the data the port will carry. The
command words, BUSY, DONE, OVR and CNT agree (70_reset_and_hazards.md R201). -/
structure State.SameControl (s t : State) : Prop where
  cmd : s.cmd = t.cmd
  lcmd : s.lcmd = t.lcmd
  busy : s.busy = t.busy
  done : s.done = t.done
  ovr : s.ovr = t.ovr
  cnt : s.cnt = t.cnt
  port : List.Forall₂ PortCycle.SameShape s.port t.port

/-- Everything but the result registers, BUSY, DONE and CNT is unchanged: what every command leaves alone (10_state.md
R30). -/
def State.SameOutsideResult (s t : State) : Prop :=
  t.cmd = s.cmd ∧ t.ovr = s.ovr ∧ t.inLo = s.inLo ∧ t.inHi = s.inHi ∧ t.lcmd = s.lcmd ∧ t.lin = s.lin ∧
    t.port = s.port ∧ t.answers = s.answers

/-- `t` is `s` after a completion, but for what the result registers hold: BUSY 0, DONE 1, CNT run down, and nothing else
changed (10_state.md R30). -/
def State.Finished (s t : State) : Prop :=
  t.busy = false ∧ t.done = true ∧ t.cnt = 0 ∧ s.SameOutsideResult t

/-- `t` shows ILL, ERR, COUNT and CLASS as given. -/
def State.Shows (t : State) (ill : Bool) (err : ErrClass) (count : Nat) (cls : BitVec 16) : Prop :=
  t.ill = ill ∧ t.err = err ∧ t.count.toNat = count ∧ t.cls = cls

/-- The table of legal command words (30_encoding.md R59), word by word. -/
def legalWords : List (Word × Instr) :=
  [(0x00000000, .clr), (0x00000001, .sym64), (0x00000009, .sym32), (0x00000002, .idx64), (0x0000000A, .idx32),
    (0x00000003, .split64), (0x0000000B, .split32), (0x00000004, .join64), (0x0000000C, .join32)]
  ++ [(0x00000015, .enc64 1), (0x00000025, .enc64 2), (0x00000035, .enc64 3), (0x0000001D, .enc32 1),
    (0x0000002D, .enc32 2), (0x0000003D, .enc32 3), (0x0000004D, .enc32 4), (0x0000005D, .enc32 5)]
  ++ [(0x00000046, .dec64), (0x00000116, .dec64f 1), (0x00000126, .dec64f 2), (0x00000136, .dec64f 3),
    (0x00000146, .dec64f 4), (0x0000008E, .dec32), (0x0000011E, .dec32f 1), (0x0000012E, .dec32f 2),
    (0x0000013E, .dec32f 3), (0x0000014E, .dec32f 4), (0x0000015E, .dec32f 5), (0x0000016E, .dec32f 6),
    (0x0000017E, .dec32f 7), (0x0000018E, .dec32f 8)]

/-- Bit `n` of the stream that lanes of `width` meaningful bits carry, most significant bit first (41_bitpack.md R120):
`width` is 8 for raw bytes and W for indices. -/
def streamBit (width : Nat) (f : Nat → Byte) (n : Nat) : Bool := (f (n / width)).getLsbD (width - 1 - n % width)

/-- Family, final flag and symbol count of a decode command (42_codec.md R160 to R163). -/
def decodeForm : Instr → Option (Family × Bool × Nat)
  | .dec64 => some (.base64, false, 4)
  | .dec64f m => some (.base64, true, m.toNat)
  | .dec32 => some (.base32, false, 8)
  | .dec32f m => some (.base32, true, m.toNat)
  | _ => none

/-- Family and byte count of an encode command (42_codec.md R142, R143). -/
def encodeForm : Instr → Option (Family × Nat)
  | .enc64 r => some (.base64, r.toNat)
  | .enc32 r => some (.base32, r.toNat)
  | _ => none

/-- The group in lanes 0 .. `m-1` of `L` is accepted with `k` data symbols: `k` symbols of the alphabet and then pads
only (42_codec.md R153), `k` legal for the group's position and form (R154), its ghost bits zero (R155). -/
structure AcceptedGroup (A : Family) (final : Bool) (m : Nat) (L : Operand) (k : Nat) : Prop where
  le : k ≤ m
  data : ∀ j, j < k → (classify A (lane L j)).1 = .valid
  pads : ∀ j, k ≤ j → j < m → lane L j = padByte
  legal : k ∈ legalCounts A
  whole : final = false → k = A.groupSize
  unpadded : m < A.groupSize → k = m
  ghosts : (classify A (lane L (k - 1))).2.toNat % 2 ^ ghostBits A k = 0

/-- CLASS after a decode: the class of each lane below `m`, ABSENT from there on (42_codec.md R151). -/
def decodeClasses (A : Family) (m : Nat) (L : Operand) : BitVec 16 :=
  packClasses fun j => if j < m then (classify A (lane L j)).1 else .absent

end Sys2Proof.Machine
end

