-- ==== Sys2Proof/Certificates/Slice0/Obligations.lean ====
section
/-! DEFINITION. The statements for the provers. -/

open Sys2Proof Sys2Proof.Machine

/-! ## The command word -/

/-- 30_encoding.md R59: the 31 words of the table decode to their commands, and every other word is illegal. -/
def Obligations.LegalWordsAreTheTable : Prop :=
  (∀ w i, (w, i) ∈ legalWords → decode w = .ok i) ∧
    (∀ w, (∀ i, (w, i) ∉ legalWords) → ∃ e, decode w = .error e) ∧
    legalWords.length = 31

/-- 30_encoding.md R56, R59: the decoder gives a command exactly for the well-formed commands' own words, so decode and
encode agree both ways and no bit of a word is dropped. -/
def Obligations.DecodeIffEncodedWellFormed : Prop :=
  ∀ (w : Word) (i : Instr), decode w = .ok i ↔ WellFormed i ∧ encode i = w

/-- 30_encoding.md R60: the conditions under which a word is illegal, on the fields of the word. -/
def Obligations.IllegalExactlyUnderListedConditions : Prop :=
  ∀ c : Word, (∃ e, decode c = .error e) ↔
    (let FN := (cmdFN c).toNat; let A := (cmdA c).toNat; let N := (cmdN c).toNat; let F := (cmdF c).toNat
     let RB := if A = 0 then 3 else 5; let G := if A = 0 then 4 else 8
     (cmdRSV c).toNat ≠ 0 ∨ FN = 7 ∨ (FN = 0 ∧ (A, N, F) ≠ (0, 0, 0)) ∨
      ((FN = 1 ∨ FN = 2 ∨ FN = 3 ∨ FN = 4) ∧ (N, F) ≠ (0, 0)) ∨
      (FN = 5 ∧ (F = 1 ∨ N = 0 ∨ N > RB)) ∨ (FN = 6 ∧ F = 0 ∧ N ≠ G) ∨ (FN = 6 ∧ F = 1 ∧ (N = 0 ∨ N > G)))

/-- 30_encoding.md R56, R59: one word of each family of the table, field by field, decodes to its command. -/
def Obligations.SampleWordsDecode : Prop :=
  decode (0#23 ++ 0#1 ++ 0#4 ++ 0#1 ++ 0#3) = .ok .clr ∧ decode (0#23 ++ 0#1 ++ 0#4 ++ 1#1 ++ 1#3) = .ok .sym32 ∧
    decode (0#23 ++ 0#1 ++ 0#4 ++ 0#1 ++ 2#3) = .ok .idx64 ∧ decode (0#23 ++ 0#1 ++ 0#4 ++ 1#1 ++ 3#3) = .ok .split32 ∧
    decode (0#23 ++ 0#1 ++ 0#4 ++ 0#1 ++ 4#3) = .ok .join64 ∧ decode (0#23 ++ 0#1 ++ 3#4 ++ 0#1 ++ 5#3) = .ok (.enc64 3) ∧
    decode (0#23 ++ 1#1 ++ 7#4 ++ 1#1 ++ 6#3) = .ok (.dec32f 7)

/-! ## Alphabets, packing and length tables -/

/-- 40_lookup.md R101, R102: the alphabets in closed form. -/
def Obligations.AlphabetsInClosedForm : Prop :=
  (∀ i : BitVec 6, sym64 i =
      if i.toNat ≤ 25 then BitVec.ofNat 8 (0x41 + i.toNat)
      else if i.toNat ≤ 51 then BitVec.ofNat 8 (0x61 + (i.toNat - 26))
      else if i.toNat ≤ 61 then BitVec.ofNat 8 (0x30 + (i.toNat - 52))
      else if i.toNat = 62 then 0x2B else 0x2F) ∧
    (∀ i : BitVec 5, sym32 i =
      if i.toNat ≤ 25 then BitVec.ofNat 8 (0x41 + i.toNat) else BitVec.ofNat 8 (0x32 + (i.toNat - 26)))

/-- 40_lookup.md R100, R103, R104: lookup by index and by symbol are inverse bijections between the indices and the
VALID bytes, and the pad byte is PAD in both families. -/
def Obligations.AlphabetsAreBijections : Prop :=
  ∀ A : Family,
    (∀ n, n < 2 ^ A.width → classify A (symbol A (BitVec.ofNat 8 n)) = (.valid, BitVec.ofNat 8 n)) ∧
      (∀ b, (classify A b).1 = .valid → symbol A (classify A b).2 = b ∧ (classify A b).2.toNat < 2 ^ A.width) ∧
      (∀ b, (classify A b).1 = .pad ↔ b = 0x3D)

/-- 41_bitpack.md R124, R125: packing and unpacking undo one another, in both families and both ways. -/
def Obligations.PackingIsInvertible : Prop :=
  ∀ (A : Family) (f : Nat → Byte),
    (∀ j, j < A.rawBytes → unpack A (pack A f) j = f j) ∧
      (∀ k, k < A.groupSize → (pack A (unpack A f) k).toNat = (f k).toNat % 2 ^ A.width)

/-- 42_codec.md R141, R144: the tables of data symbols, decoded bytes, ghost bits and ghost masks. -/
def Obligations.LengthTables : Prop :=
  ([1, 2, 3].map (dataSymbols .base64) = [2, 3, 4]) ∧ ([1, 2, 3, 4, 5].map (dataSymbols .base32) = [2, 4, 5, 7, 8]) ∧
    ([4, 3, 2].map (fun k => (decodedBytes .base64 k, ghostBits .base64 k, ghostMask .base64 k)) =
      [(3, 0, 0x00), (2, 2, 0x03), (1, 4, 0x0F)]) ∧
    ([8, 7, 5, 4, 2].map (fun k => (decodedBytes .base32 k, ghostBits .base32 k, ghostMask .base32 k)) =
      [(5, 0, 0x00), (4, 3, 0x07), (3, 1, 0x01), (2, 4, 0x0F), (1, 2, 0x03)]) ∧
    (∀ k, k ∈ legalCounts .base64 ↔ ∃ r, 1 ≤ r ∧ r ≤ 3 ∧ dataSymbols .base64 r = k) ∧
    (∀ k, k ∈ legalCounts .base32 ↔ ∃ r, 1 ≤ r ∧ r ≤ 5 ∧ dataSymbols .base32 r = k)

/-! ## The commands: result, completion and frame -/

/-- 40_lookup.md R110: CLR completes in every state, with OUT and every result field 0 and nothing else changed. -/
def Obligations.ClrClearsTheResult : Prop :=
  encode .clr = 0x00000000 ∧
    ∀ s : State, ∃ t : State, exec .clr s = .next t ∧ t.out = 0 ∧ t.Shows false .ok 0 0 ∧ s.Finished t

/-- 40_lookup.md R106, R107: SYM completes in every state; every lane is the symbol of the lane's low W bits. -/
def Obligations.SymLooksUpEveryLane : Prop :=
  encode .sym64 = 0x00000001 ∧ encode .sym32 = 0x00000009 ∧
    ∀ s : State,
      (∃ t : State, exec .sym64 s = .next t ∧ (∀ i, i < 8 → lane t.out i = rom64.getD ((lane s.lin i).toNat % 64) 0) ∧
        t.Shows false .ok 8 0 ∧ s.Finished t) ∧
      (∃ t : State, exec .sym32 s = .next t ∧ (∀ i, i < 8 → lane t.out i = rom32.getD ((lane s.lin i).toNat % 32) 0) ∧
        t.Shows false .ok 8 0 ∧ s.Finished t)

/-- 40_lookup.md R108, R109: IDX completes in every state; OUT and CLASS are written for every lane, and ERR is
InvalidEncodingChar exactly when a lane is INVALID. -/
def Obligations.IdxClassifiesEveryLane : Prop :=
  encode .idx64 = 0x00000002 ∧ encode .idx32 = 0x0000000A ∧
    ∀ (s : State) (A : Family) (i : Instr), (A = .base64 ∧ i = .idx64) ∨ (A = .base32 ∧ i = .idx32) →
      ∃ t : State, exec i s = .next t ∧
        (∀ j, j < 8 → lane t.out j = (classify A (lane s.lin j)).2 ∧
          t.cls.extractLsb' (2 * j) 2 = (classify A (lane s.lin j)).1.code) ∧
        t.ill = false ∧ t.count = 8 ∧
        ((∃ j, j < 8 ∧ (classify A (lane s.lin j)).1 = .invalid) → t.err = .invalidEncodingChar) ∧
        ((∀ j, j < 8 → (classify A (lane s.lin j)).1 ≠ .invalid) → t.err = .ok) ∧ s.Finished t

/-- 41_bitpack.md R120, R126, R127: SPLIT completes in every state; the indices in the first G lanes carry the bit
stream of the first RB bytes, most significant bit first, and nothing else is in OUT. -/
def Obligations.SplitCarriesTheBitStream : Prop :=
  encode .split64 = 0x00000003 ∧ encode .split32 = 0x0000000B ∧
    ∀ (s : State) (A : Family) (i : Instr), (A = .base64 ∧ i = .split64) ∨ (A = .base32 ∧ i = .split32) →
      ∃ t : State, exec i s = .next t ∧
        (∀ n, n < 8 * A.rawBytes → streamBit A.width (lane t.out) n = streamBit 8 (lane s.lin) n) ∧
        (∀ k, k < A.groupSize → (lane t.out k).toNat < 2 ^ A.width) ∧
        (∀ k, A.groupSize ≤ k → k < 8 → lane t.out k = 0) ∧ t.Shows false .ok A.groupSize 0 ∧ s.Finished t

/-- 41_bitpack.md R120, R128, R129: JOIN completes in every state; the first RB bytes carry the bit stream of the low W
bits of the first G lanes, and the lanes beyond are 0. -/
def Obligations.JoinCarriesTheBitStream : Prop :=
  encode .join64 = 0x00000004 ∧ encode .join32 = 0x0000000C ∧
    ∀ (s : State) (A : Family) (i : Instr), (A = .base64 ∧ i = .join64) ∨ (A = .base32 ∧ i = .join32) →
      ∃ t : State, exec i s = .next t ∧
        (∀ n, n < 8 * A.rawBytes → streamBit 8 (lane t.out) n = streamBit A.width (lane s.lin) n) ∧
        (∀ j, A.rawBytes ≤ j → j < 8 → lane t.out j = 0) ∧ t.Shows false .ok A.rawBytes 0 ∧ s.Finished t

/-- 42_codec.md R141 to R143: ENC completes in every state for every legal byte count `r`; the first k(r) lanes are the
symbols of the indices that carry the `r` bytes and zero fill, the rest of the group is pads, and OUT is 0 beyond it. -/
def Obligations.EncEmitsSymbolsThenPads : Prop :=
  ∀ (s : State) (i : Instr) (A : Family) (r : Nat), encodeForm i = some (A, r) → WellFormed i →
    ∃ t : State, exec i s = .next t ∧
      (∃ idx : Nat → Byte,
        (∀ j, j < dataSymbols A r → (idx j).toNat < 2 ^ A.width ∧ lane t.out j = symbol A (idx j)) ∧
        (∀ n, n < A.width * dataSymbols A r →
          streamBit A.width idx n = (decide (n < 8 * r) && streamBit 8 (lane s.lin) n))) ∧
      (∀ j, dataSymbols A r ≤ j → j < A.groupSize → lane t.out j = 0x3D) ∧
      (∀ j, A.groupSize ≤ j → j < 8 → lane t.out j = 0) ∧ t.Shows false .ok A.groupSize 0 ∧ s.Finished t

/-- 42_codec.md R150 to R157, R160 to R163: a decode command whose group is accepted with `k` data symbols completes with
the b(k) bytes their indices carry, zeros beyond, ERR OK, COUNT b(k), and the classes. -/
def Obligations.DecSucceedsOnAcceptedGroups : Prop :=
  ∀ (s : State) (i : Instr) (A : Family) (final : Bool) (m k : Nat), decodeForm i = some (A, final, m) → WellFormed i →
    AcceptedGroup A final m s.lin k →
    ∃ t : State, exec i s = .next t ∧
      (∀ n, n < 8 * decodedBytes A k →
        streamBit 8 (lane t.out) n = streamBit A.width (fun j => (classify A (lane s.lin j)).2) n) ∧
      (∀ j, decodedBytes A k ≤ j → j < 8 → lane t.out j = 0) ∧
      t.Shows false .ok (decodedBytes A k) (decodeClasses A m s.lin) ∧ s.Finished t

/-- 42_codec.md R152, 60_exceptions.md R181, R184: an INVALID lane among the present ones makes a decode command complete
with InvalidEncodingChar, whatever the padding: OUT 0, COUNT 0, the classes kept. -/
def Obligations.DecFailsOnInvalidLane : Prop :=
  ∀ (s : State) (i : Instr) (A : Family) (final : Bool) (m j : Nat), decodeForm i = some (A, final, m) → WellFormed i →
    j < m → (classify A (lane s.lin j)).1 = .invalid →
    ∃ t : State, exec i s = .next t ∧ t.out = 0 ∧ t.Shows false .invalidEncodingChar 0 (decodeClasses A m s.lin) ∧ s.Finished t

/-- 42_codec.md R153 to R156, 60_exceptions.md R181: with no INVALID lane, a group that is accepted with no number of data
symbols makes a decode command complete with BadPadding: OUT 0, COUNT 0, the classes kept. -/
def Obligations.DecFailsOnBadPadding : Prop :=
  ∀ (s : State) (i : Instr) (A : Family) (final : Bool) (m : Nat), decodeForm i = some (A, final, m) → WellFormed i →
    (∀ j, j < m → (classify A (lane s.lin j)).1 ≠ .invalid) → (∀ k, ¬AcceptedGroup A final m s.lin k) →
    ∃ t : State, exec i s = .next t ∧ t.out = 0 ∧ t.Shows false .badPadding 0 (decodeClasses A m s.lin) ∧ s.Finished t

/-- 42_codec.md R142, R176: an encode command emits only symbols of its alphabet and the pad, in the lanes of its group. -/
def Obligations.EncodeAlphabetClosure : Prop :=
  ∀ (s : State) (i : Instr) (A : Family) (r : Nat), encodeForm i = some (A, r) → WellFormed i →
    ∃ t : State, exec i s = .next t ∧ ∀ j, j < A.groupSize → lane t.out j ∈ rom A ∨ lane t.out j = 0x3D

/-- The model's own choice (log 11, after 30_encoding.md R60): a term whose count has no legal word completes with the
result of an illegal word. -/
def Obligations.IllFormedTermsCompleteAsIllegal : Prop :=
  ∀ (i : Instr) (s : State), ¬WellFormed i →
    ∃ t : State, exec i s = .next t ∧ t.out = 0 ∧ t.Shows true .ok 0 0 ∧ s.Finished t

/-! ## Relations between commands -/

/-- 41_bitpack.md R130, in both families: SYM on the OUT of SPLIT gives the group's lanes of ENC of the full block, and
JOIN on the OUT of IDX on VALID symbols gives the OUT of DEC on them. -/
def Obligations.LayersCompose : Prop :=
  ∀ (A : Family) (split sym enc idx join dec : Instr),
    (A, split, sym, enc, idx, join, dec) =
        (Family.base64, Instr.split64, Instr.sym64, Instr.enc64 3, Instr.idx64, Instr.join64, Instr.dec64) ∨
      (A, split, sym, enc, idx, join, dec) =
        (Family.base32, Instr.split32, Instr.sym32, Instr.enc32 5, Instr.idx32, Instr.join32, Instr.dec32) →
    ∀ s t u : State, u.lin = t.out →
      (exec split s = .next t →
        ∃ v w, exec sym u = .next v ∧ exec enc s = .next w ∧ ∀ j, j < A.groupSize → lane v.out j = lane w.out j) ∧
      (exec idx s = .next t → (∀ j, j < A.groupSize → (classify A (lane s.lin j)).1 = .valid) →
        ∃ v w, exec join u = .next v ∧ exec dec s = .next w ∧ v.out = w.out)

/-- 42_codec.md R176 for one group: whatever raw block of a legal size is encoded, decoding the encoded group as a final
group gives the block back, with ERR OK and its size as COUNT. -/
def Obligations.GroupRoundTrip : Prop :=
  ∀ (A : Family) (r : Nat) (s t u : State), 1 ≤ r → r ≤ A.rawBytes →
    exec (encodeInstr A r) s = .next t → u.lin = t.out →
    ∃ v : State, exec (decodeFinalInstr A A.groupSize) u = .next v ∧ v.err = .ok ∧ v.ill = false ∧ v.count.toNat = r ∧
      (∀ j, j < r → lane v.out j = lane s.lin j) ∧ (∀ j, r ≤ j → j < 8 → lane v.out j = 0)

/-- 42_codec.md R176, canonical encoding for one group: a final group that decodes, padded or not, is the encoding of the
bytes it decodes to, up to the pads left out. -/
def Obligations.AcceptedGroupIsCanonical : Prop :=
  ∀ (A : Family) (m : Nat) (s t u : State), 1 ≤ m → m ≤ A.groupSize →
    exec (decodeFinalInstr A m) s = .next t → t.err = .ok → u.lin = t.out →
    ∃ v : State, exec (encodeInstr A t.count.toNat) u = .next v ∧ v.ill = false ∧
      (∀ j, j < m → lane v.out j = lane s.lin j) ∧ (∀ j, m ≤ j → j < A.groupSize → lane v.out j = 0x3D)

/-! ## The port, issue, completion, reset -/

/-- 20_memory.md R43: a host address is in the window at an offset exactly when it is BASE plus that offset, and BASE is a
multiple of 64. -/
def Obligations.WindowOffsetsCountFromBase : Prop :=
  Config.BASE % 64 = 0 ∧ ∀ addr off, windowOffset addr = some off ↔ off < 64 ∧ addr = Config.BASE + off

/-- 10_state.md R19, R23, R25: the layout of the STATUS word, the ERR and CLASS codes in it, and the field of each lane's
class. -/
def Obligations.StatusWordLayout : Prop :=
  (∀ s : State, s.statusWord.getLsbD 0 = s.busy ∧ s.statusWord.getLsbD 1 = s.done ∧ s.statusWord.getLsbD 2 = s.ill ∧
    s.statusWord.extractLsb' 3 2 = s.err.code ∧ s.statusWord.extractLsb' 5 4 = s.count ∧
    s.statusWord.getLsbD 9 = s.ovr ∧ s.statusWord.extractLsb' 10 6 = 0 ∧ s.statusWord.extractLsb' 16 16 = s.cls ∧
    ∀ i, i < 8 → s.statusWord.extractLsb' (16 + 2 * i) 2 = s.cls.extractLsb' (2 * i) 2) ∧
  (ErrClass.code .ok = 0 ∧ ErrClass.code .invalidEncodingChar = 1 ∧ ErrClass.code .badPadding = 2) ∧
  (LaneClass.code .valid = 0 ∧ LaneClass.code .pad = 1 ∧ LaneClass.code .invalid = 2 ∧ LaneClass.code .absent = 3) ∧
  ∀ (f : Nat → LaneClass) (i : Nat), i < 8 → (packClasses f).extractLsb' (2 * i) 2 = (f i).code

/-- 20_memory.md R44, R47, in the model's own list of answers (log 5): outside reset, a read at any defined offset answers
the register the map names there (0 at a reserved offset) as the cycle begins (log 1), and otherwise the cycle is the
cycle without it. -/
def Obligations.ReadsAnswerTheMapAndChangeNothing : Prop :=
  ∀ (s : State) (rest : List PortCycle) (off : Nat), off < 64 → off % 4 = 0 →
    ∃ t, step { s with port := ⟨false, none⟩ :: rest } = .next t ∧
      step { s with port := ⟨false, some (.read off 4)⟩ :: rest } =
        .next { t with answers := s.answers ++
          [if off = 0x00 then s.cmd else if off = 0x04 then s.statusWord else if off = 0x08 then s.inLo
            else if off = 0x0C then s.inHi else if off = 0x10 then s.outLo else if off = 0x14 then s.outHi else 0] }

/-- 10_state.md R29, 20_memory.md R42, R44, 70_reset_and_hazards.md R207: outside reset, a write of IN_LO or IN_HI replaces
that register alone, whether or not a command is in flight, and a write of STATUS, OUT or a reserved offset does nothing. -/
def Obligations.OperandWritesAndIgnoredWrites : Prop :=
  ∀ (s : State) (rest : List PortCycle) (off : Nat) (v : Word), off < 64 → off % 4 = 0 → off ≠ 0x00 →
    ∃ t, step { s with port := ⟨false, none⟩ :: rest } = .next t ∧
      step { s with port := ⟨false, some (.write off 4 v)⟩ :: rest } =
        .next (if off = 0x08 then { t with inLo := v } else if off = 0x0C then { t with inHi := v } else t)

/-- 10_state.md R27: an accepted issue, in the one cycle. -/
def Obligations.AcceptedIssueLatches : Prop :=
  ∀ (s : State) (rest : List PortCycle) (v : Word), s.port = ⟨false, some (.write 0x00 4 v)⟩ :: rest → s.busy = false →
    step s = .next { s with
      cmd := v, lcmd := v, lin := s.inHi ++ s.inLo, cnt := Config.LAT, busy := true, done := false, ovr := false,
      port := rest }

/-- 10_state.md R28: a CMD write while BUSY changes nothing except that OVR becomes 1: the cycle is otherwise the cycle
without it. -/
def Obligations.DroppedIssueSetsOnlyOvr : Prop :=
  ∀ (s : State) (rest : List PortCycle) (v : Word), s.busy = true →
    ∃ t, step { s with port := ⟨false, none⟩ :: rest } = .next t ∧
      step { s with port := ⟨false, some (.write 0x00 4 v)⟩ :: rest } = .next { t with ovr := true }

/-- 10_state.md R26: what sets and clears OVR in a cycle that goes on. -/
def Obligations.OvrRecordsADrop : Prop :=
  ∀ (s t : State) (c : PortCycle), c = s.port.headD idleCycle → step s = .next t →
    (t.ovr = true ↔
      c.reset = false ∧
        (((∃ v, c.access = some (.write 0x00 4 v)) ∧ s.busy = true) ∨
          (s.ovr = true ∧ ¬((∃ v, c.access = some (.write 0x00 4 v)) ∧ s.busy = false))))

/-- 10_state.md R30, and the model's own port and cycle (log 1, 4, 10): when the latched word decodes to a command and its
latency has run down, the step is that command's exec on the state the cycle's access leaves, moving past the port's
entry; with nothing presented it is exec itself. -/
def Obligations.StepRunsTheDecodedCommand : Prop :=
  ∀ (s : State) (i : Instr), decode s.lcmd = .ok i → s.busy = true → s.cnt ≤ 1 →
    (s.port = [] → step s = exec i s) ∧
      (∀ c rest u, s.port = c :: rest → c.reset = false → portAccess c.access { s with port := rest } = .next u →
        step s = exec i u)

/-- 60_exceptions.md R180, on the model's own cycle: when the latched word is illegal and its latency has run down (CNT 1,
or 0, log 10), the step, outside reset, is a completion with ILL 1 and every other result 0, on the state the cycle's
access leaves (log 1); nothing else changes. -/
def Obligations.IllegalWordCompletesWithIll : Prop :=
  ∀ (s u : State) (e : IllegalWord) (c : PortCycle), decode s.lcmd = .error e → s.busy = true → s.cnt ≤ 1 →
    c = s.port.headD idleCycle → c.reset = false → portAccess c.access { s with port := s.port.tail } = .next u →
    ∃ t, step s = .next t ∧ t.out = 0 ∧ t.Shows true .ok 0 0 ∧ u.Finished t

/-- 10_state.md R35, on the model's own cycle: two completions (cycles that begin with BUSY 1 and CNT 1, or 0, log 10) with
the same latched word and operand give the same results, whatever the rest of the two states, CMD, IN, OUT, STATUS and
the accesses of the cycle (log 1), and whatever came before. -/
def Obligations.ResultsDependOnLatchedWordAndOperand : Prop :=
  ∀ (s t : State) (c d : PortCycle), s.lcmd = t.lcmd → s.lin = t.lin → s.busy = true → t.busy = true → s.cnt ≤ 1 →
    t.cnt ≤ 1 → c = s.port.headD idleCycle → d = t.port.headD idleCycle → c.reset = false → d.reset = false →
    c.Defined → d.Defined →
    ∃ s' t', step s = .next s' ∧ step t = .next t' ∧ s'.result = t'.result

/-- 10_state.md R31, 70_reset_and_hazards.md R205: the result registers change only in a cycle of reset or in the cycle
that completes a command. -/
def Obligations.ResultsChangeOnlyAtCompletionOrReset : Prop :=
  ∀ s t : State, step s = .next t → t.result ≠ s.result →
    (s.port.headD idleCycle).reset = true ∨ (s.busy = true ∧ s.cnt ≤ 1 ∧ t.busy = false ∧ t.done = true)

/-- 70_reset_and_hazards.md R202: every word, legal or illegal, keeps BUSY 1, DONE 0 and the old results for the LAT - 1
cycles after its accepted issue and has completed, with its result on the operand at the issue, after LAT of them,
whatever defined accesses the host makes meanwhile, as long as it does not reset the block. The cycles after the listed
ones are idle, the model's own choice (log 4). -/
def Obligations.UniformLatency : Prop :=
  ∀ (s : State) (v : Word) (rest : List PortCycle), s.busy = false → s.port = ⟨false, some (.write 0x00 4 v)⟩ :: rest →
    (∀ c, c ∈ rest → c.reset = false ∧ c.Defined) →
    ∀ n, n ≤ Config.LAT → ∃ t, Sys2Proof.core.run (1 + n) s = .next t ∧
      (n < Config.LAT → t.busy = true ∧ t.done = false ∧ t.result = s.result) ∧
      (n = Config.LAT → t.busy = false ∧ t.done = true ∧ t.result = wordResult v (s.inHi ++ s.inLo))

/-- 10_state.md R34: the reset values. -/
def Obligations.ResetValues : Prop :=
  State.reset.cmd = 0 ∧ State.reset.statusWord = 0 ∧ State.reset.busy = false ∧ State.reset.done = false ∧
    State.reset.ill = false ∧ State.reset.err = .ok ∧ State.reset.count = 0 ∧ State.reset.ovr = false ∧
    State.reset.cls = 0 ∧ State.reset.inLo = 0 ∧ State.reset.inHi = 0 ∧ State.reset.outLo = 0 ∧ State.reset.outHi = 0 ∧
    State.reset.lcmd = 0 ∧ State.reset.lin = 0 ∧ State.reset.cnt = 0

/-- 70_reset_and_hazards.md R200: a cycle of reset (log 6) with a defined access or none puts every register at its reset
value, whatever the state, a command in its last cycle included; a write has no effect and a read answers 0. The list of
answers, to which the 0 is added and which reset keeps, is the model's own (log 5). -/
def Obligations.ResetCycleClearsEverything : Prop :=
  ∀ (s : State) (rest : List PortCycle),
    step { s with port := ⟨true, none⟩ :: rest } = .next { State.reset with port := rest, answers := s.answers } ∧
      ∀ off, off < 64 → off % 4 = 0 →
        step { s with port := ⟨true, some (.read off 4)⟩ :: rest } =
            .next { State.reset with port := rest, answers := s.answers ++ [0] } ∧
          ∀ v, step { s with port := ⟨true, some (.write off 4 v)⟩ :: rest } =
            .next { State.reset with port := rest, answers := s.answers }

/-- 60_exceptions.md R182: a cycle whose access, if any, is defined never stops, whatever the state. -/
def Obligations.DefinedCyclesNeverStop : Prop :=
  ∀ s : State, (s.port.headD idleCycle).Defined → ∃ t, step s = .next t

/-- 20_memory.md R45, and the model's own choice of a fault outside the window (log 7, 8): an access outside the window
faults, and one inside that is not 32 bits wide or not aligned is refused, in and out of reset. -/
def Obligations.UndefinedAccessesStop : Prop :=
  ∀ (s : State) (rest : List PortCycle) (rst : Bool) (a : HostAccess) (off size : Nat),
    (a = .read off size ∨ ∃ v, a = .write off size v) →
    (64 ≤ off → step { s with port := ⟨rst, some a⟩ :: rest } = .fault (.outsideWindow off)) ∧
      (off < 64 → (size ≠ 4 ∨ off % 4 ≠ 0) →
        step { s with port := ⟨rst, some a⟩ :: rest } = .refused (.narrowAccess off size))

/-! ## Invariant and constant time -/

/-- The invariant holds right after reset. -/
def Obligations.ResetMeetsInvariant : Prop := State.reset.Inv

/-- 10_state.md R20, R21, R23, R24, R32, R35: every cycle keeps the invariant: BUSY and DONE exclude one another, CNT stays in
its range, LCMD is CMD, a completed command's results are its word's results on its operand, ERR is OK when ILL is set,
COUNT is at most 8, and the lanes beyond COUNT are 0. -/
def Obligations.StepKeepsInvariant : Prop :=
  ∀ s t : State, s.Inv → step s = .next t → t.Inv

/-- 70_reset_and_hazards.md R201: operands, results and written data never reach the control state: two states that agree
on it step alike and agree on it afterwards, so latency and the BUSY sequence do not depend on data. -/
def Obligations.ControlDoesNotDependOnData : Prop :=
  ∀ s t : State, s.SameControl t →
    (∀ s' : State, step s = .next s' → ∃ t', step t = .next t' ∧ s'.SameControl t') ∧
      (∀ f, step s = .fault f → step t = .fault f) ∧ (∀ r, step s = .refused r → step t = .refused r)

/-- 40_lookup.md R111, 70_reset_and_hazards.md R201, over the model's own description of the units (log 14): a word issued
from any two idle states, whatever IN and the rest of them hold, shows the same trace: BUSY cycle by cycle, so the
latency, which is LAT, and the comparators, table entries and check terms exercised. -/
def Obligations.ObservableTraceIgnoresOperand : Prop :=
  ∀ (n : Nat) (c : Word) (s t : State), s.busy = false → t.busy = false →
    observableTrace n c s = observableTrace n c t ∧
      (Config.LAT < n → (observableTrace n c s).latency = Config.LAT)

/-- 40_lookup.md R105, over the model's own description of the units (log 14): the parallel-compare lookups make every
comparison, whatever is looked up: each entry of the table, and in the classifier the pad byte too. -/
def Obligations.EveryEntryIsCompared : Prop :=
  ∀ (A : Family) (b : Byte),
    (symbolScan A b).2 = (List.range (2 ^ A.width)).map .entry ∧
      (classifyScan A b).2 = (List.range (2 ^ A.width)).map .entry ++ [.pad]

/-- 40_lookup.md R105: every command word computes the same result by parallel-compare lookups. -/
def Obligations.ScanningLookupsComputeTheResult : Prop :=
  ∀ (c : Word) (L : Operand), (wordProbed c L).1 = wordResult c L

/-- 40_lookup.md R105: the range-selection structure computes the same lookups. -/
def Obligations.RangeSelectionComputesTheLookups : Prop :=
  (∀ i : BitVec 6, symRange64 (i.setWidth 8) = sym64 i) ∧ (∀ i : BitVec 5, symRange32 (i.setWidth 8) = sym32 i) ∧
    (∀ b, classifyRange64 b = classify .base64 b) ∧ (∀ b, classifyRange32 b = classify .base32 b)

/-! ## The host sequences -/

/-- 42_codec.md R173: the two forms of decoded_max_size agree, and for whole groups they are the source's formula. -/
def Obligations.DecodedSizeForms : Prop :=
  ∀ (A : Family) (e : Nat),
    decodedMaxSize A e = e / A.groupSize * A.rawBytes + A.width * (e % A.groupSize) / 8 ∧
      (e % A.groupSize = 0 → decodedMaxSize A e = e / A.groupSize * A.rawBytes)

/-- 42_codec.md R170, R172: encode of any bytes runs to its end from an idle block, leaves the block idle, and writes
exactly encoded_max_size bytes, whatever the unused lanes hold, lane by lane. The schedule of its accesses and the bound
of its WAIT are the model's own (log 18). -/
def Obligations.HostEncodeWritesExactSize : Prop :=
  ∀ (A : Family) (fill : Nat → Nat → Byte) (raw : List Byte) (capacity : Nat) (s : State), s.busy = false →
    encodedMaxSize A raw.length ≤ capacity →
    ∃ enc t, hostEncode A fill raw capacity s = .ok enc t ∧ t.busy = false ∧ enc.length = encodedMaxSize A raw.length

/-- 42_codec.md R171, R173, R174: decode runs to its end from an idle block, whatever the unused lanes hold. No bytes give
no bytes, and a length that is not whole groups is BadPadding where the host requires padding; neither touches the
block. Otherwise OUT is scrubbed at the end, and what is written fits decoded_max_size. The schedule of the accesses and
the bound of WAIT are the model's own (log 18). -/
def Obligations.HostDecodeEndsScrubbed : Prop :=
  ∀ (A : Family) (fill : Nat → Nat → Byte) (requirePad : Bool) (enc : List Byte) (capacity : Nat) (s : State),
    s.busy = false → decodedMaxSize A enc.length ≤ capacity →
    (enc = [] → hostDecode A fill requirePad enc capacity s = .ok (.written []) s) ∧
      (requirePad = true → enc.length % A.groupSize ≠ 0 →
        hostDecode A fill requirePad enc capacity s = .ok (.error .badPadding) s) ∧
      (enc ≠ [] → requirePad = false ∨ enc.length % A.groupSize = 0 →
        ∃ r t, hostDecode A fill requirePad enc capacity s = .ok r t ∧ t.busy = false ∧ t.out = 0 ∧
          t.cmd = encode .clr ∧ (∀ bytes, r = .written bytes → bytes.length ≤ decodedMaxSize A enc.length))

/-- 42_codec.md R176: the round trip of the reference sequences: decoding what encode wrote gives the bytes back, for every
byte string, in both families, whatever the unused lanes hold, lane by lane and in each of the two calls, and also where
the host requires padding. The schedule of the accesses and the bound of WAIT are the model's own (log 18). -/
def Obligations.HostRoundTrip : Prop :=
  ∀ (A : Family) (fill fill' : Nat → Nat → Byte) (requirePad : Bool) (raw : List Byte) (cap cap' : Nat) (s : State),
    s.busy = false → encodedMaxSize A raw.length ≤ cap →
    ∃ enc t, hostEncode A fill raw cap s = .ok enc t ∧
      (decodedMaxSize A enc.length ≤ cap' →
        ∃ u, hostDecode A fill' requirePad enc cap' t = .ok (.written raw) u)

/-! ## Every unit of a group command -/

/-- 42_codec.md R140, over the model's own description of the units (log 14): whatever the operand, ENC looks every one of
the G lanes up over the whole table, and DEC classifies every present lane, pad comparison included, and evaluates every
term of the checks of R152 to R155. -/
def Obligations.EveryLaneAndCheckIsEvaluated : Prop :=
  (∀ (i : Instr) (A : Family) (r : Nat) (L : Operand), encodeForm i = some (A, r) → WellFormed i →
    ∀ j e, j < A.groupSize → e < 2 ^ A.width → .compare j (.entry e) ∈ (wordProbed (encode i) L).2) ∧
  (∀ (i : Instr) (A : Family) (final : Bool) (m : Nat) (L : Operand), decodeForm i = some (A, final, m) → WellFormed i →
    (∀ j, j < m →
      (∀ e, e < 2 ^ A.width → .compare j (.entry e) ∈ (wordProbed (encode i) L).2) ∧
        .compare j .pad ∈ (wordProbed (encode i) L).2 ∧ .check (.invalid j) ∈ (wordProbed (encode i) L).2 ∧
        .check (.leading j) ∈ (wordProbed (encode i) L).2 ∧ .check (.placement j) ∈ (wordProbed (encode i) L).2) ∧
      (∀ k, k ∈ legalCounts A → .check (.ghost k) ∈ (wordProbed (encode i) L).2) ∧
      (final = false → .check (.count A.groupSize) ∈ (wordProbed (encode i) L).2) ∧
      (final = true → m < A.groupSize → .check (.count m) ∈ (wordProbed (encode i) L).2) ∧
      (final = true → m = A.groupSize → ∀ k, k ∈ legalCounts A → .check (.count k) ∈ (wordProbed (encode i) L).2))
end

