-- ==== Sys2Proof/Laws/Checks.lean ====
section
/-! SUPPORT. What each check of IDX and DEC decides, in words without lists (42_codec.md R152 to R155). -/

namespace Sys2Proof.Machine

theorem anyInvalid_iff (m : Nat) (cls : Nat → LaneClass) : anyInvalid m cls = true ↔ ∃ j, j < m ∧ cls j = .invalid := by
  simp [anyInvalid]

theorem padPlacement_iff (m k : Nat) (cls : Nat → LaneClass) :
    padPlacement m k cls = true ↔ ∀ j, k ≤ j → j < m → cls j = .pad := by
  simp only [padPlacement, List.all_eq_true, List.mem_range, Bool.or_eq_true, decide_eq_true_eq, beq_iff_eq]
  exact ⟨fun h j hk hm => (h j hm).resolve_left (by omega), fun h j hm => (Nat.lt_or_ge j k).imp_right fun hk => h j hk hm⟩

theorem padCount_iff (A : Family) (final : Bool) (m k : Nat) :
    padCount A final m k = true ↔
      (final = false ∧ k = A.groupSize) ∨ (final = true ∧ k ∈ legalCounts A ∧ (m = A.groupSize ∨ k = m)) := by
  unfold padCount
  cases final with
  | false => simp
  | true =>
    simp only [if_true]
    split <;> simp_all [and_comm]

theorem ghostClear_iff (A : Family) (k : Nat) (idx : Nat → Byte) :
    ghostClear A k idx = true ↔ k ∈ legalCounts A ∧ idx (k - 1) &&& ghostMask A k = 0 := by
  simp [ghostClear]

theorem takeWhile_range (p : Nat → Bool) (n : Nat) : ∀ m, n ≤ m → (∀ j, j < n → p j = true) → (n < m → p n = false) →
    ((List.range m).takeWhile p).length = n := by
  intro m hnm hp hn
  have e : List.range m = List.range n ++ (List.range (m - n)).map (n + ·) := by
    rw [← List.range_add]
    congr 1
    omega
  rw [e, List.takeWhile_append_of_pos (by simpa using hp)]
  obtain h | h := Nat.eq_zero_or_pos (m - n)
  · simp [h]
  · obtain ⟨d, hd⟩ : ∃ d, m - n = d + 1 := ⟨m - n - 1, by omega⟩
    rw [hd, List.range_succ_eq_map]
    simp [hn (by omega)]

/-- The number of leading VALID lanes is the one number all of whose lanes are VALID and whose own lane is not. -/
theorem leadingValid_eq {m k : Nat} {cls : Nat → LaneClass} (hk : k ≤ m) (hv : ∀ j, j < k → cls j = .valid)
    (hn : k < m → cls k ≠ .valid) : leadingValid m cls = k :=
  takeWhile_range _ k m hk (fun j hj => by simp [hv j hj]) fun h => by simp [hn h]

theorem leadingValid_le (m : Nat) (cls : Nat → LaneClass) : leadingValid m cls ≤ m := by
  have := (List.takeWhile_sublist (fun j => cls j == .valid) (l := List.range m)).length_le
  simpa [leadingValid] using this

theorem leadingValid_valid {m : Nat} {cls : Nat → LaneClass} {j : Nat} (h : j < leadingValid m cls) :
    cls j = .valid := by
  have hp : (List.range m).takeWhile (fun j => cls j == .valid) <+: List.range m := List.takeWhile_prefix _
  have hm : j < m := by
    have := leadingValid_le m cls
    omega
  have hget : ((List.range m).takeWhile fun j => cls j == .valid)[j]'h = j := by
    rw [hp.getElem h]
    simp
  have := List.mem_takeWhile_imp (List.getElem_mem (l := (List.range m).takeWhile fun j => cls j == .valid) h)
  rw [hget] at this
  simpa using this

theorem legalCounts_bounds (A : Family) {k : Nat} (h : k ∈ legalCounts A) :
    2 ≤ k ∧ k ≤ A.groupSize ∧ decodedBytes A k ≤ A.rawBytes ∧ 1 ≤ decodedBytes A k ∧
      dataSymbols A (decodedBytes A k) = k := by
  cases A <;> simp only [legalCounts, List.mem_cons, List.not_mem_nil, or_false] at h <;>
    rcases h with rfl | rfl | rfl | rfl | rfl | rfl <;> decide

end Sys2Proof.Machine
end

