-- ==== Sys2Proof/Laws/Decode.lean ====
section
/-! SUPPORT. The laws of the command word: its fields, the word a set of fields makes, and what the decoder looks up. -/

namespace Sys2Proof

@[simp] theorem cmdFN_commandWord (fn : BitVec 3) (a : BitVec 1) (n : BitVec 4) (f : BitVec 1) :
    cmdFN (commandWord fn a n f) = fn := by
  apply BitVec.eq_of_getLsbD_eq
  intro k hk
  simp only [cmdFN, commandWord, BitVec.getLsbD_extractLsb']
  repeat rw [BitVec.getLsbD_append]
  simp [hk]

@[simp] theorem cmdA_commandWord (fn : BitVec 3) (a : BitVec 1) (n : BitVec 4) (f : BitVec 1) :
    cmdA (commandWord fn a n f) = a := by
  apply BitVec.eq_of_getLsbD_eq
  intro k hk
  simp only [cmdA, commandWord, BitVec.getLsbD_extractLsb']
  repeat rw [BitVec.getLsbD_append]
  obtain rfl : k = 0 := by omega
  simp

@[simp] theorem cmdN_commandWord (fn : BitVec 3) (a : BitVec 1) (n : BitVec 4) (f : BitVec 1) :
    cmdN (commandWord fn a n f) = n := by
  apply BitVec.eq_of_getLsbD_eq
  intro k hk
  simp only [cmdN, commandWord, BitVec.getLsbD_extractLsb']
  repeat rw [BitVec.getLsbD_append]
  simp [hk, show ¬(4 + k < 3) by omega, show ¬(4 + k - 3 < 1) by omega, show 4 + k - 3 - 1 = k by omega]

@[simp] theorem cmdF_commandWord (fn : BitVec 3) (a : BitVec 1) (n : BitVec 4) (f : BitVec 1) :
    cmdF (commandWord fn a n f) = f := by
  apply BitVec.eq_of_getLsbD_eq
  intro k hk
  simp only [cmdF, commandWord, BitVec.getLsbD_extractLsb']
  repeat rw [BitVec.getLsbD_append]
  obtain rfl : k = 0 := by omega
  simp

@[simp] theorem cmdRSV_commandWord (fn : BitVec 3) (a : BitVec 1) (n : BitVec 4) (f : BitVec 1) :
    cmdRSV (commandWord fn a n f) = 0#23 := by
  apply BitVec.eq_of_getLsbD_eq
  intro k hk
  simp only [cmdRSV, commandWord, BitVec.getLsbD_extractLsb']
  repeat rw [BitVec.getLsbD_append]
  simp [show ¬(9 + k < 3) by omega, show ¬(9 + k - 3 < 1) by omega, show ¬(9 + k - 3 - 1 < 4) by omega,
    show ¬(9 + k - 3 - 1 - 4 < 1) by omega]

/-- A word is made of its five fields. -/
theorem word_eq_fields (c : Word) : c = cmdRSV c ++ cmdF c ++ cmdN c ++ cmdA c ++ cmdFN c := by
  apply BitVec.eq_of_getLsbD_eq
  intro k hk
  repeat rw [BitVec.getLsbD_append]
  simp only [cmdRSV, cmdF, cmdN, cmdA, cmdFN, BitVec.getLsbD_extractLsb']
  split
  · simp [*]
  split
  · simp [*, show 3 + (k - 3) = k by omega]
  split
  · simp [*, show 4 + (k - 3 - 1) = k by omega]
  split
  · simp [*, show 8 + (k - 3 - 1 - 4) = k by omega]
  · simp [show 9 + (k - 3 - 1 - 4 - 1) = k by omega, show k - 3 - 1 - 4 - 1 < 23 by omega]

/-- A word whose reserved bits are zero is the word of its other four fields. -/
theorem commandWord_fields {c : Word} (h : cmdRSV c = 0#23) : commandWord (cmdFN c) (cmdA c) (cmdN c) (cmdF c) = c := by
  rw [commandWord, ← h, ← word_eq_fields]

theorem decode_commandWord (fn : BitVec 3) (a : BitVec 1) (n : BitVec 4) (f : BitVec 1) :
    decode (commandWord fn a n f) = decodeFields fn a n f := by
  simp [decode]

theorem decode_of_reserved {c : Word} (h : cmdRSV c ≠ 0#23) : decode c = .error .reservedBits := by
  simp [decode, h]

theorem decode_of_fields {c : Word} (h : cmdRSV c = 0#23) :
    decode c = decodeFields (cmdFN c) (cmdA c) (cmdN c) (cmdF c) := by
  simp [decode, h]

theorem decodePlain_ok {n : BitVec 4} {f : BitVec 1} {i j : Instr} (h : decodePlain n f i = .ok j) :
    n = 0#4 ∧ f = 0#1 ∧ i = j := by
  unfold decodePlain at h
  split at h
  · simp_all
  · exact nomatch h

theorem decodeEncode_ok {rb : Nat} {n : BitVec 4} {f : BitVec 1} {i j : Instr} (h : decodeEncode rb n f i = .ok j) :
    f = 0#1 ∧ 1 ≤ n.toNat ∧ n.toNat ≤ rb ∧ i = j := by
  unfold decodeEncode at h
  split at h
  · simp_all
  · exact nomatch h

theorem decodeDecode_ok {g : Nat} {n : BitVec 4} {f : BitVec 1} {whole final j : Instr}
    (h : decodeDecode g n f whole final = .ok j) :
    (f = 0#1 ∧ n.toNat = g ∧ whole = j) ∨ (f = 1#1 ∧ 1 ≤ n.toNat ∧ n.toNat ≤ g ∧ final = j) := by
  unfold decodeDecode at h
  split at h
  · split at h
    · simp_all
    · exact nomatch h
  · have hf : f = 1#1 := by revert f; decide
    split at h
    · simp_all
    · exact nomatch h

end Sys2Proof
end

