-- ==== Sys2Proof/Laws/State.lean ====
section
/-! SUPPORT. What each register update does to each field of State: one lemma a field and update. -/

namespace Sys2Proof.Machine

/-! ## An accepted issue -/

@[simp] theorem State.issue_cmd (s : State) (v : Word) : (s.issue v).cmd = v := rfl
@[simp] theorem State.issue_busy (s : State) (v : Word) : (s.issue v).busy = true := rfl
@[simp] theorem State.issue_done (s : State) (v : Word) : (s.issue v).done = false := rfl
@[simp] theorem State.issue_ill (s : State) (v : Word) : (s.issue v).ill = s.ill := rfl
@[simp] theorem State.issue_err (s : State) (v : Word) : (s.issue v).err = s.err := rfl
@[simp] theorem State.issue_count (s : State) (v : Word) : (s.issue v).count = s.count := rfl
@[simp] theorem State.issue_ovr (s : State) (v : Word) : (s.issue v).ovr = false := rfl
@[simp] theorem State.issue_cls (s : State) (v : Word) : (s.issue v).cls = s.cls := rfl
@[simp] theorem State.issue_inLo (s : State) (v : Word) : (s.issue v).inLo = s.inLo := rfl
@[simp] theorem State.issue_inHi (s : State) (v : Word) : (s.issue v).inHi = s.inHi := rfl
@[simp] theorem State.issue_outLo (s : State) (v : Word) : (s.issue v).outLo = s.outLo := rfl
@[simp] theorem State.issue_outHi (s : State) (v : Word) : (s.issue v).outHi = s.outHi := rfl
@[simp] theorem State.issue_lcmd (s : State) (v : Word) : (s.issue v).lcmd = v := rfl
@[simp] theorem State.issue_lin (s : State) (v : Word) : (s.issue v).lin = s.operand := rfl
@[simp] theorem State.issue_cnt (s : State) (v : Word) : (s.issue v).cnt = Config.LAT := rfl
@[simp] theorem State.issue_port (s : State) (v : Word) : (s.issue v).port = s.port := rfl
@[simp] theorem State.issue_answers (s : State) (v : Word) : (s.issue v).answers = s.answers := rfl

/-! ## A dropped issue -/

@[simp] theorem State.dropIssue_cmd (s : State) : (s.dropIssue).cmd = s.cmd := rfl
@[simp] theorem State.dropIssue_busy (s : State) : (s.dropIssue).busy = s.busy := rfl
@[simp] theorem State.dropIssue_done (s : State) : (s.dropIssue).done = s.done := rfl
@[simp] theorem State.dropIssue_ill (s : State) : (s.dropIssue).ill = s.ill := rfl
@[simp] theorem State.dropIssue_err (s : State) : (s.dropIssue).err = s.err := rfl
@[simp] theorem State.dropIssue_count (s : State) : (s.dropIssue).count = s.count := rfl
@[simp] theorem State.dropIssue_ovr (s : State) : (s.dropIssue).ovr = true := rfl
@[simp] theorem State.dropIssue_cls (s : State) : (s.dropIssue).cls = s.cls := rfl
@[simp] theorem State.dropIssue_inLo (s : State) : (s.dropIssue).inLo = s.inLo := rfl
@[simp] theorem State.dropIssue_inHi (s : State) : (s.dropIssue).inHi = s.inHi := rfl
@[simp] theorem State.dropIssue_outLo (s : State) : (s.dropIssue).outLo = s.outLo := rfl
@[simp] theorem State.dropIssue_outHi (s : State) : (s.dropIssue).outHi = s.outHi := rfl
@[simp] theorem State.dropIssue_lcmd (s : State) : (s.dropIssue).lcmd = s.lcmd := rfl
@[simp] theorem State.dropIssue_lin (s : State) : (s.dropIssue).lin = s.lin := rfl
@[simp] theorem State.dropIssue_cnt (s : State) : (s.dropIssue).cnt = s.cnt := rfl
@[simp] theorem State.dropIssue_port (s : State) : (s.dropIssue).port = s.port := rfl
@[simp] theorem State.dropIssue_answers (s : State) : (s.dropIssue).answers = s.answers := rfl

/-! ## A completion -/

@[simp] theorem State.complete_cmd (s : State) (r : Result) : (s.complete r).cmd = s.cmd := rfl
@[simp] theorem State.complete_busy (s : State) (r : Result) : (s.complete r).busy = false := rfl
@[simp] theorem State.complete_done (s : State) (r : Result) : (s.complete r).done = true := rfl
@[simp] theorem State.complete_ill (s : State) (r : Result) : (s.complete r).ill = r.ill := rfl
@[simp] theorem State.complete_err (s : State) (r : Result) : (s.complete r).err = r.err := rfl
@[simp] theorem State.complete_count (s : State) (r : Result) : (s.complete r).count = r.count := rfl
@[simp] theorem State.complete_ovr (s : State) (r : Result) : (s.complete r).ovr = s.ovr := rfl
@[simp] theorem State.complete_cls (s : State) (r : Result) : (s.complete r).cls = r.cls := rfl
@[simp] theorem State.complete_inLo (s : State) (r : Result) : (s.complete r).inLo = s.inLo := rfl
@[simp] theorem State.complete_inHi (s : State) (r : Result) : (s.complete r).inHi = s.inHi := rfl
@[simp] theorem State.complete_outLo (s : State) (r : Result) : (s.complete r).outLo = lowWord r.out := rfl
@[simp] theorem State.complete_outHi (s : State) (r : Result) : (s.complete r).outHi = highWord r.out := rfl
@[simp] theorem State.complete_lcmd (s : State) (r : Result) : (s.complete r).lcmd = s.lcmd := rfl
@[simp] theorem State.complete_lin (s : State) (r : Result) : (s.complete r).lin = s.lin := rfl
@[simp] theorem State.complete_cnt (s : State) (r : Result) : (s.complete r).cnt = 0 := rfl
@[simp] theorem State.complete_port (s : State) (r : Result) : (s.complete r).port = s.port := rfl
@[simp] theorem State.complete_answers (s : State) (r : Result) : (s.complete r).answers = s.answers := rfl

/-! ## A cycle of CNT -/

@[simp] theorem State.countDown_cmd (s : State) : (s.countDown).cmd = s.cmd := rfl
@[simp] theorem State.countDown_busy (s : State) : (s.countDown).busy = s.busy := rfl
@[simp] theorem State.countDown_done (s : State) : (s.countDown).done = s.done := rfl
@[simp] theorem State.countDown_ill (s : State) : (s.countDown).ill = s.ill := rfl
@[simp] theorem State.countDown_err (s : State) : (s.countDown).err = s.err := rfl
@[simp] theorem State.countDown_count (s : State) : (s.countDown).count = s.count := rfl
@[simp] theorem State.countDown_ovr (s : State) : (s.countDown).ovr = s.ovr := rfl
@[simp] theorem State.countDown_cls (s : State) : (s.countDown).cls = s.cls := rfl
@[simp] theorem State.countDown_inLo (s : State) : (s.countDown).inLo = s.inLo := rfl
@[simp] theorem State.countDown_inHi (s : State) : (s.countDown).inHi = s.inHi := rfl
@[simp] theorem State.countDown_outLo (s : State) : (s.countDown).outLo = s.outLo := rfl
@[simp] theorem State.countDown_outHi (s : State) : (s.countDown).outHi = s.outHi := rfl
@[simp] theorem State.countDown_lcmd (s : State) : (s.countDown).lcmd = s.lcmd := rfl
@[simp] theorem State.countDown_lin (s : State) : (s.countDown).lin = s.lin := rfl
@[simp] theorem State.countDown_cnt (s : State) : (s.countDown).cnt = s.cnt - 1 := rfl
@[simp] theorem State.countDown_port (s : State) : (s.countDown).port = s.port := rfl
@[simp] theorem State.countDown_answers (s : State) : (s.countDown).answers = s.answers := rfl

/-! ## Reset -/

@[simp] theorem State.clearRegisters_cmd (s : State) : (s.clearRegisters).cmd = 0 := rfl
@[simp] theorem State.clearRegisters_busy (s : State) : (s.clearRegisters).busy = false := rfl
@[simp] theorem State.clearRegisters_done (s : State) : (s.clearRegisters).done = false := rfl
@[simp] theorem State.clearRegisters_ill (s : State) : (s.clearRegisters).ill = false := rfl
@[simp] theorem State.clearRegisters_err (s : State) : (s.clearRegisters).err = .ok := rfl
@[simp] theorem State.clearRegisters_count (s : State) : (s.clearRegisters).count = 0 := rfl
@[simp] theorem State.clearRegisters_ovr (s : State) : (s.clearRegisters).ovr = false := rfl
@[simp] theorem State.clearRegisters_cls (s : State) : (s.clearRegisters).cls = 0 := rfl
@[simp] theorem State.clearRegisters_inLo (s : State) : (s.clearRegisters).inLo = 0 := rfl
@[simp] theorem State.clearRegisters_inHi (s : State) : (s.clearRegisters).inHi = 0 := rfl
@[simp] theorem State.clearRegisters_outLo (s : State) : (s.clearRegisters).outLo = 0 := rfl
@[simp] theorem State.clearRegisters_outHi (s : State) : (s.clearRegisters).outHi = 0 := rfl
@[simp] theorem State.clearRegisters_lcmd (s : State) : (s.clearRegisters).lcmd = 0 := rfl
@[simp] theorem State.clearRegisters_lin (s : State) : (s.clearRegisters).lin = 0 := rfl
@[simp] theorem State.clearRegisters_cnt (s : State) : (s.clearRegisters).cnt = 0 := rfl
@[simp] theorem State.clearRegisters_port (s : State) : (s.clearRegisters).port = s.port := rfl
@[simp] theorem State.clearRegisters_answers (s : State) : (s.clearRegisters).answers = s.answers := rfl

/-! ## An answered read -/

@[simp] theorem State.answer_cmd (s : State) (v : Word) : (s.answer v).cmd = s.cmd := rfl
@[simp] theorem State.answer_busy (s : State) (v : Word) : (s.answer v).busy = s.busy := rfl
@[simp] theorem State.answer_done (s : State) (v : Word) : (s.answer v).done = s.done := rfl
@[simp] theorem State.answer_ill (s : State) (v : Word) : (s.answer v).ill = s.ill := rfl
@[simp] theorem State.answer_err (s : State) (v : Word) : (s.answer v).err = s.err := rfl
@[simp] theorem State.answer_count (s : State) (v : Word) : (s.answer v).count = s.count := rfl
@[simp] theorem State.answer_ovr (s : State) (v : Word) : (s.answer v).ovr = s.ovr := rfl
@[simp] theorem State.answer_cls (s : State) (v : Word) : (s.answer v).cls = s.cls := rfl
@[simp] theorem State.answer_inLo (s : State) (v : Word) : (s.answer v).inLo = s.inLo := rfl
@[simp] theorem State.answer_inHi (s : State) (v : Word) : (s.answer v).inHi = s.inHi := rfl
@[simp] theorem State.answer_outLo (s : State) (v : Word) : (s.answer v).outLo = s.outLo := rfl
@[simp] theorem State.answer_outHi (s : State) (v : Word) : (s.answer v).outHi = s.outHi := rfl
@[simp] theorem State.answer_lcmd (s : State) (v : Word) : (s.answer v).lcmd = s.lcmd := rfl
@[simp] theorem State.answer_lin (s : State) (v : Word) : (s.answer v).lin = s.lin := rfl
@[simp] theorem State.answer_cnt (s : State) (v : Word) : (s.answer v).cnt = s.cnt := rfl
@[simp] theorem State.answer_port (s : State) (v : Word) : (s.answer v).port = s.port := rfl
@[simp] theorem State.answer_answers (s : State) (v : Word) : (s.answer v).answers = s.answers ++ [v] := rfl

end Sys2Proof.Machine
end

