-- ==== Sys2Proof/Laws/Lanes.lean ====
section
/-! SUPPORT. The laws of byte lanes: building an operand and reading its lanes, and the two register halves. -/

namespace Sys2Proof.Machine

theorem lane_ofLanes (f : Nat → Byte) {i : Nat} (h : i < 8) : lane (ofLanes f) i = f i := by
  have hi : i = 0 ∨ i = 1 ∨ i = 2 ∨ i = 3 ∨ i = 4 ∨ i = 5 ∨ i = 6 ∨ i = 7 := by omega
  apply BitVec.eq_of_getLsbD_eq
  intro k hk
  simp only [lane, ofLanes, BitVec.getLsbD_extractLsb']
  repeat rw [BitVec.getLsbD_append]
  obtain rfl | rfl | rfl | rfl | rfl | rfl | rfl | rfl := hi <;>
    (simp [hk]; try grind)

/-- Two operands with the same eight lanes are the same. -/
theorem operand_ext {v w : Operand} (h : ∀ i, i < 8 → lane v i = lane w i) : v = w := by
  apply BitVec.eq_of_getLsbD_eq
  intro k hk
  have := congrArg (fun b : Byte => b.getLsbD (k % 8)) (h (k / 8) (by omega))
  simp only [lane, BitVec.getLsbD_extractLsb'] at this
  have e : 8 * (k / 8) + k % 8 = k := by omega
  simpa [e, Nat.mod_lt] using this

theorem ofLanes_lane (v : Operand) : ofLanes (lane v) = v :=
  operand_ext fun _ h => lane_ofLanes _ h

theorem ofLanes_congr {f g : Nat → Byte} (h : ∀ i, i < 8 → f i = g i) : ofLanes f = ofLanes g :=
  operand_ext fun i hi => by rw [lane_ofLanes _ hi, lane_ofLanes _ hi, h i hi]

@[simp] theorem ofLanes_zero : ofLanes (fun _ => 0#8) = 0#64 := by decide

theorem lane_zero (i : Nat) : lane 0 i = 0 := by simp [lane]

@[simp] theorem lowWord_append (hi lo : Word) : lowWord (hi ++ lo : Operand) = lo := by
  apply BitVec.eq_of_getLsbD_eq
  intro k hk
  simp only [lowWord, BitVec.getLsbD_extractLsb']
  rw [BitVec.getLsbD_append]
  simp [hk]

@[simp] theorem highWord_append (hi lo : Word) : highWord (hi ++ lo : Operand) = hi := by
  apply BitVec.eq_of_getLsbD_eq
  intro k hk
  simp only [highWord, BitVec.getLsbD_extractLsb']
  rw [BitVec.getLsbD_append]
  simp [hk]

@[simp] theorem highWord_append_lowWord (v : Operand) : (highWord v ++ lowWord v : Operand) = v := by
  apply BitVec.eq_of_getLsbD_eq
  intro k hk
  simp only [highWord, lowWord, BitVec.getLsbD_append, BitVec.getLsbD_extractLsb']
  by_cases h : k < 32
  · simp [h]
  · simp [h, show k - 32 < 32 by omega, show 32 + (k - 32) = k by omega]

@[simp] theorem State.out_complete (s : State) (r : Result) : (s.complete r).out = r.out := by
  simp [State.out]

@[simp] theorem State.out_issue (s : State) (v : Word) : (s.issue v).out = s.out := rfl
@[simp] theorem State.out_dropIssue (s : State) : (s.dropIssue).out = s.out := rfl
@[simp] theorem State.out_countDown (s : State) : (s.countDown).out = s.out := rfl
@[simp] theorem State.out_answer (s : State) (v : Word) : (s.answer v).out = s.out := rfl
@[simp] theorem State.out_clearRegisters (s : State) : (s.clearRegisters).out = 0 := by
  simp only [State.out, State.clearRegisters_outHi, State.clearRegisters_outLo]
  decide
@[simp] theorem State.operand_complete (s : State) (r : Result) : (s.complete r).operand = s.operand := rfl
@[simp] theorem State.operand_issue (s : State) (v : Word) : (s.issue v).operand = s.operand := rfl
@[simp] theorem State.operand_dropIssue (s : State) : (s.dropIssue).operand = s.operand := rfl
@[simp] theorem State.operand_countDown (s : State) : (s.countDown).operand = s.operand := rfl
@[simp] theorem State.operand_answer (s : State) (v : Word) : (s.answer v).operand = s.operand := rfl

end Sys2Proof.Machine
end

