-- ==== Sys2Proof/Laws/Exec.lean ====
section
/-! SUPPORT. What the engine's step can do: a command completes with its result, whatever the state. -/

namespace Sys2Proof.Machine

/-- Every command completes, and what it writes is its result on the latched operand (10_state.md R30). -/
theorem exec_eq_complete (i : Instr) (s : State) : exec i s = .next (s.complete (commandResult i s.lin)) := by
  cases i <;> rfl

/-- The engine's step completes any latched word with its result (10_state.md R30, 60_exceptions.md R180). -/
theorem engineComplete_eq (s : State) : engineComplete s = .next (s.complete (wordResult s.lcmd s.lin)) := by
  unfold engineComplete wordResult
  cases decode s.lcmd <;> simp [exec_eq_complete]

/-- A cycle of the engine never stops. -/
theorem engineCycle_eq (s : State) :
    engineCycle s = .next (if s.cnt ≤ 1 then s.complete (wordResult s.lcmd s.lin) else s.countDown) := by
  unfold engineCycle
  split <;> simp [engineComplete_eq]

/-! ## Lanes of a result -/

theorem lane_lanes (f : Nat → Byte) (n : Nat) {i : Nat} (h : i < 8) : lane (Result.lanes f n).out i = f i :=
  lane_ofLanes f h

@[simp] theorem Result.lanes_ill (f : Nat → Byte) (n : Nat) : (Result.lanes f n).ill = false := rfl
@[simp] theorem Result.lanes_err (f : Nat → Byte) (n : Nat) : (Result.lanes f n).err = .ok := rfl
@[simp] theorem Result.lanes_count (f : Nat → Byte) (n : Nat) : (Result.lanes f n).count = BitVec.ofNat 4 n := rfl
@[simp] theorem Result.lanes_cls (f : Nat → Byte) (n : Nat) : (Result.lanes f n).cls = 0 := rfl
@[simp] theorem Result.illegal_out : Result.illegal.out = 0 := rfl
@[simp] theorem Result.illegal_ill : Result.illegal.ill = true := rfl
@[simp] theorem Result.illegal_err : Result.illegal.err = .ok := rfl
@[simp] theorem Result.illegal_count : Result.illegal.count = 0 := rfl
@[simp] theorem Result.illegal_cls : Result.illegal.cls = 0 := rfl
@[simp] theorem Result.failed_out (e : ErrClass) (c : BitVec 16) : (Result.failed e c).out = 0 := rfl
@[simp] theorem Result.failed_ill (e : ErrClass) (c : BitVec 16) : (Result.failed e c).ill = false := rfl
@[simp] theorem Result.failed_err (e : ErrClass) (c : BitVec 16) : (Result.failed e c).err = e := rfl
@[simp] theorem Result.failed_count (e : ErrClass) (c : BitVec 16) : (Result.failed e c).count = 0 := rfl
@[simp] theorem Result.failed_cls (e : ErrClass) (c : BitVec 16) : (Result.failed e c).cls = c := rfl
@[simp] theorem Result.ofLegal_true (r : Result) : Result.ofLegal true r = r := rfl
@[simp] theorem Result.ofLegal_false (r : Result) : Result.ofLegal false r = .illegal := rfl

/-- The lanes of a successful decode: its bytes, then zeros (42_codec.md R157). -/
theorem lane_decodeSuccess (A : Family) (k : Nat) (idx : Nat → Byte) (cls : BitVec 16) {j : Nat} (h : j < 8) :
    lane (decodeSuccess A k idx cls).out j =
      if j < decodedBytes A k then unpack A (fun i => if i < k then idx i else 0) j else 0 := by
  simp only [decodeSuccess, lane_ofLanes _ h]

/-- The lanes of an encoded group (42_codec.md R142, R143). -/
theorem lane_encodeBlock (A : Family) (r : Nat) (L : Operand) {j : Nat} (h : j < 8) :
    lane (encodeBlock A r L).out j = encodedLane A r (fun k => symbol A (blockIndex A r L k)) j := by
  simp only [encodeBlock, encodeResult, lane_lanes _ _ h]

/-- The lanes of SYM, IDX, SPLIT and JOIN. -/
theorem lane_symLanes (A : Family) (L : Operand) {j : Nat} (h : j < 8) :
    lane (symLanes A L).out j = symbol A (lane L j) := by
  simp only [symLanes, symResult, lane_lanes _ _ h]

theorem lane_idxLanes (A : Family) (L : Operand) {j : Nat} (h : j < 8) :
    lane (idxLanes A L).out j = (classify A (lane L j)).2 := by
  simp only [idxLanes, idxResult, lane_ofLanes _ h]

theorem lane_splitBlock (A : Family) (L : Operand) {j : Nat} (h : j < 8) :
    lane (splitBlock A L).out j = pack A (lane L) j := by
  simp only [splitBlock, lane_lanes _ _ h]

theorem lane_joinBlock (A : Family) (L : Operand) {j : Nat} (h : j < 8) :
    lane (joinBlock A L).out j = unpack A (lane L) j := by
  simp only [joinBlock, lane_lanes _ _ h]

/-- What a decode can do: one of the two failures, or a success whose `k` passed every check (42_codec.md R150). -/
theorem decodeResult_cases (A : Family) (final : Bool) (m : Nat) (look : Nat → LaneClass × Byte) :
    let cls := presentClass m look
    let k := leadingValid m cls
    let idx := presentIndex m look
    (anyInvalid m cls = true ∧
        decodeResult A final m look = .failed .invalidEncodingChar (packClasses cls)) ∨
      (anyInvalid m cls = false ∧ padPlacement m k cls = true ∧ padCount A final m k = true ∧
        ghostClear A k idx = true ∧ decodeResult A final m look = decodeSuccess A k idx (packClasses cls)) ∨
      (anyInvalid m cls = false ∧ (padPlacement m k cls && padCount A final m k && ghostClear A k idx) = false ∧
        decodeResult A final m look = .failed .badPadding (packClasses cls)) := by
  intro cls k idx
  by_cases h1 : anyInvalid m cls = true
  · exact .inl ⟨h1, by simp [decodeResult, cls, h1]⟩
  · have h1' : anyInvalid m cls = false := by simpa using h1
    by_cases h2 : (padPlacement m k cls && padCount A final m k && ghostClear A k idx) = true
    · refine .inr (.inl ?_)
      simp only [Bool.and_eq_true] at h2
      exact ⟨h1', h2.1.1, h2.1.2, h2.2, by
        unfold decodeResult
        simp only [cls, k, idx] at h1' h2 ⊢
        simp [h1', h2.1.1, h2.1.2, h2.2]⟩
    · have h2' := Bool.eq_false_iff.mpr h2
      refine .inr (.inr ⟨h1', h2', ?_⟩)
      unfold decodeResult
      simp only [cls, k, idx] at h1' h2' ⊢
      rw [if_neg (by simp [h1']), if_neg (by simp [h2'])]

end Sys2Proof.Machine
end

