-- ==== Sys2Proof/Laws/Lookup.lean ====
section
/-! SUPPORT. The laws of the two lookups, family by family. -/

namespace Sys2Proof.Machine

theorem classify64_sym64 : ∀ i : BitVec 6, classify64 (sym64 i) = (.valid, i) := by decide
theorem classify32_sym32 : ∀ i : BitVec 5, classify32 (sym32 i) = (.valid, i) := by decide

set_option maxRecDepth 4000 in
theorem sym64_classify64 : ∀ b : Byte, (classify64 b).1 = .valid → sym64 (classify64 b).2 = b := by decide

set_option maxRecDepth 4000 in
theorem sym32_classify32 : ∀ b : Byte, (classify32 b).1 = .valid → sym32 (classify32 b).2 = b := by decide

set_option maxRecDepth 4000 in
theorem classify64_ne_absent : ∀ b : Byte, (classify64 b).1 ≠ .absent := by decide

set_option maxRecDepth 4000 in
theorem classify32_ne_absent : ∀ b : Byte, (classify32 b).1 ≠ .absent := by decide

/-- The low W bits of a lane: what a lookup by index reads of it. -/
def lowIndex (A : Family) (b : Byte) : Byte := BitVec.ofNat 8 (b.toNat % 2 ^ A.width)

set_option maxRecDepth 4000 in
theorem classify_symbol (A : Family) : ∀ b : Byte, classify A (symbol A b) = (.valid, lowIndex A b) := by
  cases A <;> decide

set_option maxRecDepth 4000 in
theorem symbol_classify (A : Family) :
    ∀ b : Byte, (classify A b).1 = .valid → symbol A (classify A b).2 = b := by
  cases A <;> decide

set_option maxRecDepth 4000 in
theorem classify_ne_absent (A : Family) : ∀ b : Byte, (classify A b).1 ≠ .absent := by cases A <;> decide

theorem classify_padByte (A : Family) : classify A padByte = (.pad, 0) := by cases A <;> decide

set_option maxRecDepth 4000 in
theorem classify_eq_pad (A : Family) : ∀ b : Byte, (classify A b).1 = .pad ↔ b = padByte := by cases A <;> decide

set_option maxRecDepth 4000 in
theorem classify_index_lt (A : Family) : ∀ b : Byte, (classify A b).2.toNat < 2 ^ A.width := by cases A <;> decide

theorem symbol_mem_rom64 : ∀ i : BitVec 6, sym64 i ∈ rom64 := by decide
theorem symbol_mem_rom32 : ∀ i : BitVec 5, sym32 i ∈ rom32 := by decide

end Sys2Proof.Machine
end

