-- ==== Sys2Proof/Laws/Pack.lean ====
section
/-! SUPPORT. What the packing functions give: the group value, the range of an index, nothing beyond the group or the block. -/

namespace Sys2Proof.Machine

theorem indexValue64_pack64 (b : Nat → Byte) : indexValue64 (pack64 b) = rawValue64 b := by
  apply BitVec.eq_of_getLsbD_eq
  intro k hk
  simp only [indexValue64, pack64]
  repeat rw [BitVec.getLsbD_append]
  simp only [BitVec.getLsbD_extractLsb']
  grind

theorem indexValue32_pack32 (b : Nat → Byte) : indexValue32 (pack32 b) = rawValue32 b := by
  apply BitVec.eq_of_getLsbD_eq
  intro k hk
  simp only [indexValue32, pack32]
  repeat rw [BitVec.getLsbD_append]
  simp only [BitVec.getLsbD_extractLsb']
  grind

/-- An index has W bits. -/
theorem pack_lt (A : Family) (f : Nat → Byte) (k : Nat) : (pack A f k).toNat < 2 ^ A.width := by
  cases A
  · have h := (pack64 f k).isLt
    have e : pack .base64 f k = (pack64 f k).setWidth 8 := rfl
    rw [e]
    simp [Family.width]
    omega
  · have h := (pack32 f k).isLt
    have e : pack .base32 f k = (pack32 f k).setWidth 8 := rfl
    rw [e]
    simp [Family.width]
    omega

/-- There is no index beyond the group. -/
theorem pack_beyond (A : Family) (f : Nat → Byte) {k : Nat} (h : A.groupSize ≤ k) : pack A f k = 0 := by
  cases A
  · have h : 4 ≤ k := h
    have e : pack64 f k = 0 := by unfold pack64; split <;> first | omega | rfl
    have e' : pack .base64 f k = (pack64 f k).setWidth 8 := rfl
    rw [e', e]
    rfl
  · have h : 8 ≤ k := h
    have e : pack32 f k = 0 := by unfold pack32; split <;> first | omega | rfl
    have e' : pack .base32 f k = (pack32 f k).setWidth 8 := rfl
    rw [e', e]
    rfl

/-- There is no byte beyond the raw block. -/
theorem unpack_beyond (A : Family) (s : Nat → Byte) {j : Nat} (h : A.rawBytes ≤ j) : unpack A s j = 0 := by
  cases A
  · have h : 3 ≤ j := h
    have e : unpack .base64 s j = unpack64 (fun k => (s k).extractLsb' 0 6) j := rfl
    rw [e]
    unfold unpack64
    split <;> first | omega | rfl
  · have h : 5 ≤ j := h
    have e : unpack .base32 s j = unpack32 (fun k => (s k).extractLsb' 0 5) j := rfl
    rw [e]
    unfold unpack32
    split <;> first | omega | rfl

theorem Family.sizes_le (A : Family) : A.groupSize ≤ 8 ∧ A.rawBytes ≤ 5 := by cases A <;> decide

end Sys2Proof.Machine
end

