-- ==== Sys2Proof/Laws/PerInstr.lean ====
section
/-! SUPPORT. Facts about every command as syntax, one lemma a constructor. -/

/-- The encoder leaves the reserved bits of a word clear (30_encoding.md R56). -/
def Sys2Proof.Laws.ReservedBitsClear.Statement (i : Sys2Proof.Instr) : Prop :=
  Sys2Proof.cmdRSV (Sys2Proof.encode i) = 0#23

namespace Sys2Proof.Laws.ReservedBitsClear

theorem clr : Statement .clr := cmdRSV_commandWord _ _ _ _
theorem sym64 : Statement .sym64 := cmdRSV_commandWord _ _ _ _
theorem sym32 : Statement .sym32 := cmdRSV_commandWord _ _ _ _
theorem idx64 : Statement .idx64 := cmdRSV_commandWord _ _ _ _
theorem idx32 : Statement .idx32 := cmdRSV_commandWord _ _ _ _
theorem split64 : Statement .split64 := cmdRSV_commandWord _ _ _ _
theorem split32 : Statement .split32 := cmdRSV_commandWord _ _ _ _
theorem join64 : Statement .join64 := cmdRSV_commandWord _ _ _ _
theorem join32 : Statement .join32 := cmdRSV_commandWord _ _ _ _
theorem enc64 (r : BitVec 4) : Statement (.enc64 r) := cmdRSV_commandWord _ _ _ _
theorem enc32 (r : BitVec 4) : Statement (.enc32 r) := cmdRSV_commandWord _ _ _ _
theorem dec64 : Statement .dec64 := cmdRSV_commandWord _ _ _ _
theorem dec64f (m : BitVec 4) : Statement (.dec64f m) := cmdRSV_commandWord _ _ _ _
theorem dec32 : Statement .dec32 := cmdRSV_commandWord _ _ _ _
theorem dec32f (m : BitVec 4) : Statement (.dec32f m) := cmdRSV_commandWord _ _ _ _

end Sys2Proof.Laws.ReservedBitsClear
end

