-- ==== Sys2Proof/Laws/Port.lean ====
section
/-! SUPPORT. What a host access can do. -/

namespace Sys2Proof.Machine

theorem definedAccess_of_defined {off size : Nat} (h : off < Config.WINDOW ∧ size = 4 ∧ off % 4 = 0) (s : State) :
    definedAccess off size s = .next s := by
  simp [definedAccess, Nat.not_le.mpr h.1, h.2]

/-- An access that answers a next state was a defined one, and answers the state it was given. -/
theorem definedAccess_next {off size : Nat} {s t : State} (h : definedAccess off size s = .next t) :
    (off < Config.WINDOW ∧ size = 4 ∧ off % 4 = 0) ∧ t = s := by
  unfold definedAccess at h
  split at h
  · exact nomatch h
  · split at h
    · next h1 h2 =>
      injection h with h
      exact ⟨⟨Nat.not_le.mp h1, h2⟩, h.symm⟩
    · exact nomatch h

/-- What a write can do (20_memory.md R44, R47). -/
theorem writeReg_cases (s : State) (off : Nat) (v : Word) :
    (off = 0 ∧ s.busy = true ∧ s.writeReg off v = s.dropIssue) ∨
      (off = 0 ∧ s.busy = false ∧ s.writeReg off v = s.issue v) ∨
      (off = 8 ∧ s.writeReg off v = { s with inLo := v }) ∨
      (off = 12 ∧ s.writeReg off v = { s with inHi := v }) ∨
      (off ≠ 0 ∧ off ≠ 8 ∧ off ≠ 12 ∧ s.writeReg off v = s) := by
  unfold State.writeReg
  split
  · cases hb : s.busy <;> simp
  · simp
  · simp
  · next h1 h2 h3 => simp_all

/-- What the access of a cycle outside reset can do when it answers a next state. -/
theorem portAccess_next {a : Option HostAccess} {s t : State} (h : portAccess a s = .next t) :
    (a = none ∧ t = s) ∨
      (∃ off size, a = some (.read off size) ∧ (HostAccess.read off size).Defined ∧ t = s.answer (s.readReg off)) ∨
      (∃ off size v, a = some (.write off size v) ∧ (HostAccess.write off size v).Defined ∧ t = s.writeReg off v) := by
  match a, h with
  | none, h => exact .inl ⟨rfl, by simpa [portAccess] using h.symm⟩
  | some (.read off size), h =>
    obtain ⟨hd, ht⟩ := definedAccess_next h
    exact .inr (.inl ⟨off, size, rfl, hd, ht⟩)
  | some (.write off size v), h =>
    obtain ⟨hd, ht⟩ := definedAccess_next h
    exact .inr (.inr ⟨off, size, v, rfl, hd, ht⟩)

/-- What a cycle of reset can do when it answers a next state (70_reset_and_hazards.md R200). -/
theorem resetCycle_next {a : Option HostAccess} {s t : State} (h : resetCycle a s = .next t) :
    t = s.clearRegisters ∨ ∃ off size, a = some (.read off size) ∧ t = s.clearRegisters.answer 0 := by
  match a, h with
  | none, h => exact .inl (by simpa [resetCycle] using h.symm)
  | some (.read off size), h => exact .inr ⟨off, size, rfl, (definedAccess_next h).2⟩
  | some (.write off size v), h => exact .inl (definedAccess_next h).2

/-- No access of a cycle outside reset touches a command in flight: while BUSY, LCMD, LIN, CNT, BUSY, DONE, CMD and the
results stay (10_state.md R28, R29; 20_memory.md R47). -/
theorem portAccess_busy {a : Option HostAccess} {s t : State} (h : portAccess a s = .next t) (hb : s.busy = true) :
    t.cmd = s.cmd ∧ t.busy = true ∧ t.done = s.done ∧ t.lcmd = s.lcmd ∧ t.lin = s.lin ∧ t.cnt = s.cnt ∧
      t.result = s.result ∧ t.port = s.port := by
  obtain ⟨_, rfl⟩ | ⟨off, size, _, _, rfl⟩ | ⟨off, size, v, _, _, rfl⟩ := portAccess_next h
  · simp [hb]
  · simp [hb, State.result]
  · obtain ⟨_, _, e⟩ | ⟨_, hb', _⟩ | ⟨_, e⟩ | ⟨_, e⟩ | ⟨_, _, _, e⟩ := writeReg_cases s off v
    · simp [e, hb, State.result]
    · simp [hb] at hb'
    all_goals simp [e, hb, State.result, State.out]

/-! ## The registers of the window -/

@[simp] theorem State.readReg_cmd (s : State) : s.readReg Reg.cmd.offset = s.cmd := rfl
@[simp] theorem State.readReg_status (s : State) : s.readReg Reg.status.offset = s.statusWord := rfl
@[simp] theorem State.readReg_inLo (s : State) : s.readReg Reg.inLo.offset = s.inLo := rfl
@[simp] theorem State.readReg_inHi (s : State) : s.readReg Reg.inHi.offset = s.inHi := rfl
@[simp] theorem State.readReg_outLo (s : State) : s.readReg Reg.outLo.offset = s.outLo := rfl
@[simp] theorem State.readReg_outHi (s : State) : s.readReg Reg.outHi.offset = s.outHi := rfl

theorem Reg.offset_defined (r : Reg) : r.offset < Config.WINDOW ∧ 4 = 4 ∧ r.offset % 4 = 0 := by
  cases r <;> decide

end Sys2Proof.Machine
end

