-- ==== Sys2Proof/Laws/Status.lean ====
section
/-! SUPPORT. The fields of the STATUS word and of CLASS. -/

namespace Sys2Proof.Machine

theorem statusWord_busy (s : State) : s.statusWord.getLsbD 0 = s.busy := by
  unfold State.statusWord
  repeat rw [BitVec.getLsbD_append]
  simp

theorem statusWord_err (s : State) : s.statusWord.extractLsb' 3 2 = s.err.code := by
  apply BitVec.eq_of_getLsbD_eq
  intro k hk
  simp only [State.statusWord, BitVec.getLsbD_extractLsb']
  repeat rw [BitVec.getLsbD_append]
  simp [hk]
  try grind

theorem statusWord_count (s : State) : s.statusWord.extractLsb' 5 4 = s.count := by
  apply BitVec.eq_of_getLsbD_eq
  intro k hk
  simp only [State.statusWord, BitVec.getLsbD_extractLsb']
  repeat rw [BitVec.getLsbD_append]
  simp [hk]
  try grind

theorem ErrClass.ofCode_code (e : ErrClass) : ErrClass.ofCode e.code = e := by cases e <;> decide

/-- Lane `i`'s class is bits `[2i+1:2i]` of CLASS (10_state.md R25). -/
theorem packClasses_lane (f : Nat → LaneClass) {i : Nat} (h : i < 8) :
    (packClasses f).extractLsb' (2 * i) 2 = (f i).code := by
  have hi : i = 0 ∨ i = 1 ∨ i = 2 ∨ i = 3 ∨ i = 4 ∨ i = 5 ∨ i = 6 ∨ i = 7 := by omega
  apply BitVec.eq_of_getLsbD_eq
  intro k hk
  simp only [packClasses, BitVec.getLsbD_extractLsb']
  repeat rw [BitVec.getLsbD_append]
  obtain rfl | rfl | rfl | rfl | rfl | rfl | rfl | rfl := hi <;>
    (simp [hk]; try grind)

theorem LaneClass.code_injective {a b : LaneClass} (h : a.code = b.code) : a = b := by
  cases a <;> cases b <;> first | rfl | exact absurd h (by decide)

end Sys2Proof.Machine
end

