-- ==== Sys2Proof/Laws/Step.lean ====
section
/-! SUPPORT. What one clock cycle can do, said once: later proofs cite these lemmas and do not unfold the step. -/

namespace Sys2Proof.Machine

/-- The inputs of the next cycle. -/
def State.nextCycle (s : State) : PortCycle := s.port.headD idleCycle

/-- The state with the next cycle's inputs taken. -/
def State.taken (s : State) : State := { s with port := s.port.tail }

theorem step_eq (s : State) : step s = clockCycle s.nextCycle s.taken := by
  obtain ⟨cmd, busy, done, ill, err, count, ovr, cls, inLo, inHi, outLo, outHi, lcmd, lin, cnt, port, answers⟩ := s
  cases port <;> rfl

@[simp] theorem State.taken_cmd (s : State) : s.taken.cmd = s.cmd := rfl
@[simp] theorem State.taken_busy (s : State) : s.taken.busy = s.busy := rfl
@[simp] theorem State.taken_done (s : State) : s.taken.done = s.done := rfl
@[simp] theorem State.taken_ovr (s : State) : s.taken.ovr = s.ovr := rfl
@[simp] theorem State.taken_lcmd (s : State) : s.taken.lcmd = s.lcmd := rfl
@[simp] theorem State.taken_lin (s : State) : s.taken.lin = s.lin := rfl
@[simp] theorem State.taken_cnt (s : State) : s.taken.cnt = s.cnt := rfl
@[simp] theorem State.taken_inLo (s : State) : s.taken.inLo = s.inLo := rfl
@[simp] theorem State.taken_inHi (s : State) : s.taken.inHi = s.inHi := rfl
@[simp] theorem State.taken_operand (s : State) : s.taken.operand = s.operand := rfl
@[simp] theorem State.taken_result (s : State) : s.taken.result = s.result := rfl
@[simp] theorem State.taken_answers (s : State) : s.taken.answers = s.answers := rfl
@[simp] theorem State.taken_port (s : State) : s.taken.port = s.port.tail := rfl
@[simp] theorem State.taken_readReg (s : State) (off : Nat) : s.taken.readReg off = s.readReg off := rfl

/-- What a cycle can do when it answers a next state: reset, or an access and then the engine. -/
theorem clockCycle_next {c : PortCycle} {s t : State} (h : clockCycle c s = .next t) :
    (c.reset = true ∧ resetCycle c.access s = .next t) ∨
      (c.reset = false ∧ s.busy = false ∧ portAccess c.access s = .next t) ∨
      (c.reset = false ∧ s.busy = true ∧ ∃ u, portAccess c.access s = .next u ∧
        t = if u.cnt ≤ 1 then u.complete (wordResult u.lcmd u.lin) else u.countDown) := by
  unfold clockCycle at h
  cases hr : c.reset with
  | true => exact .inl ⟨rfl, by simpa [hr] using h⟩
  | false =>
    rw [hr, if_neg (by simp)] at h
    split at h
    · next u hu =>
      cases hb : s.busy with
      | false => exact .inr (.inl ⟨rfl, rfl, by rw [hu]; simpa [hb] using h⟩)
      | true =>
        rw [hb, if_pos rfl, engineCycle_eq] at h
        injection h with h
        exact .inr (.inr ⟨rfl, rfl, u, hu, h.symm⟩)
    · exact nomatch h
    · exact nomatch h

/-- A cycle outside reset whose access answers, with no command in flight. -/
theorem clockCycle_idle {c : PortCycle} {s u : State} (hr : c.reset = false) (hb : s.busy = false)
    (hu : portAccess c.access s = .next u) : clockCycle c s = .next u := by
  simp [clockCycle, hr, hu, hb]

/-- A cycle outside reset whose access answers, with a command in flight. -/
theorem clockCycle_busy {c : PortCycle} {s u : State} (hr : c.reset = false) (hb : s.busy = true)
    (hu : portAccess c.access s = .next u) :
    clockCycle c s = .next (if u.cnt ≤ 1 then u.complete (wordResult u.lcmd u.lin) else u.countDown) := by
  simp [clockCycle, hr, hu, hb, engineCycle_eq]

/-- A defined access answers. -/
theorem portAccess_defined {c : PortCycle} (h : c.Defined) (s : State) : ∃ u, portAccess c.access s = .next u := by
  unfold portAccess
  split
  · exact ⟨_, rfl⟩
  · next off size ha => exact ⟨_, definedAccess_of_defined (h _ ha) _⟩
  · next off size v ha => exact ⟨_, definedAccess_of_defined (h _ ha) _⟩

theorem idleCycle_defined : idleCycle.Defined := fun _ h => nomatch h

/-- The last cycle of a command in flight, outside reset: a completion on the state the cycle's access leaves. -/
theorem step_completes {s u : State} (hb : s.busy = true) (hc : s.cnt ≤ 1) (hr : s.nextCycle.reset = false)
    (hu : portAccess s.nextCycle.access s.taken = .next u) :
    step s = .next (u.complete (wordResult s.lcmd s.lin)) := by
  rw [step_eq, clockCycle_busy hr (by exact hb) hu]
  obtain ⟨_, _, _, e1, e2, e3, _⟩ := portAccess_busy hu (by exact hb)
  simp only [State.taken_lcmd, State.taken_lin, State.taken_cnt] at e1 e2 e3
  rw [e1, e2, e3, if_pos hc]

/-- A run of the machine, one step taken off its front. -/
theorem run_next (M : Host.Core) (k : Nat) {s t : M.State} (h : M.step s = .next t) :
    M.run (k + 1) s = M.run k t := by
  rw [Host.Core.run, h]

/-- A cycle with a read of a register, no command in flight. -/
theorem clockCycle_read_idle {s : State} (hb : s.busy = false) (r : Reg) :
    clockCycle ⟨false, some (.read r.offset 4)⟩ s = .next (s.answer (s.readReg r.offset)) :=
  clockCycle_idle rfl hb (definedAccess_of_defined r.offset_defined _)

/-- A cycle with a read of a register, a command in flight. -/
theorem clockCycle_read_busy {s : State} (hb : s.busy = true) (r : Reg) :
    clockCycle ⟨false, some (.read r.offset 4)⟩ s =
      .next (if s.cnt ≤ 1 then (s.answer (s.readReg r.offset)).complete (wordResult s.lcmd s.lin)
        else (s.answer (s.readReg r.offset)).countDown) :=
  clockCycle_busy (c := ⟨false, some (.read r.offset 4)⟩) rfl hb (definedAccess_of_defined r.offset_defined _)

/-- A cycle with a write of a register, no command in flight. -/
theorem clockCycle_write_idle {s : State} (hb : s.busy = false) (r : Reg) (v : Word) :
    clockCycle ⟨false, some (.write r.offset 4 v)⟩ s = .next (s.writeReg r.offset v) :=
  clockCycle_idle (c := ⟨false, some (.write r.offset 4 v)⟩) rfl hb (definedAccess_of_defined r.offset_defined _)

end Sys2Proof.Machine
end

