-- ==== Sys2Proof/Laws/Run.lean ====
section
/-! SUPPORT. What the host's accesses, WAIT and one whole command give: the host sequences' proofs cite these lemmas. -/

namespace Sys2Proof.Machine

@[simp] theorem HostRun.bind_ok {α β : Type} (a : α) (s : State) (f : α → State → HostRun β) :
    (HostRun.ok a s).bind f = f a s := rfl

@[simp] theorem HostRun.bind_stop {α β : Type} (w : HostStop) (f : α → State → HostRun β) :
    (HostRun.stop w).bind f = .stop w := rfl

theorem step_presenting (s : State) (a : HostAccess) : step (s.presenting a) = clockCycle ⟨false, some a⟩ s := by
  rw [step_eq]
  rfl

/-- A read with no command in flight: the register's value, and nothing changed but the log of answers. -/
theorem hostRead_idle {s : State} (hb : s.busy = false) (r : Reg) :
    hostRead r s = .ok (s.readReg r.offset) (s.answer (s.readReg r.offset)) := by
  simp [hostRead, hostAccess, step_presenting, clockCycle_read_idle hb]

/-- A write of CMD with no command in flight issues. -/
theorem hostIssue_idle {s : State} (hb : s.busy = false) (i : Instr) : hostIssue i s = .ok () (s.issue (encode i)) := by
  rw [hostIssue, hostWrite, hostAccess, step_presenting, clockCycle_write_idle hb]
  simp [State.writeReg, Reg.offset, hb]

/-- A write of IN_LO with no command in flight. -/
theorem hostWrite_inLo_idle {s : State} (hb : s.busy = false) (v : Word) :
    hostWrite .inLo v s = .ok () { s with inLo := v } := by
  rw [hostWrite, hostAccess, step_presenting, clockCycle_write_idle hb]
  rfl

/-- A write of IN_HI with no command in flight. -/
theorem hostWrite_inHi_idle {s : State} (hb : s.busy = false) (v : Word) :
    hostWrite .inHi v s = .ok () { s with inHi := v } := by
  rw [hostWrite, hostAccess, step_presenting, clockCycle_write_idle hb]
  rfl

/-- A poll of STATUS with a command in flight: BUSY reads 1, and the engine works. -/
theorem hostRead_status_busy {s : State} (hb : s.busy = true) :
    hostRead .status s = .ok s.statusWord (if s.cnt ≤ 1 then (s.answer s.statusWord).complete (wordResult s.lcmd s.lin)
      else (s.answer s.statusWord).countDown) := by
  rw [hostRead, hostAccess, step_presenting, clockCycle_read_busy hb]
  by_cases hc : s.cnt ≤ 1 <;> simp [hc]

/-- WAIT with a command in flight ends once CNT has run down, the command complete (30_encoding.md R64). -/
theorem hostWaitFor_busy (n : Nat) : ∀ s : State, s.busy = true → s.cnt ≤ n → 1 ≤ s.cnt →
    ∃ seen, hostWaitFor (n + 1) s =
      .ok () { s.complete (wordResult s.lcmd s.lin) with answers := s.answers ++ seen } := by
  induction n with
  | zero => intro s _ h1 h2; omega
  | succ n ih =>
    intro s hb hc h1
    rw [hostWaitFor, hostRead_status_busy hb, HostRun.bind_ok, statusWord_busy, hb, if_pos rfl]
    by_cases hl : s.cnt ≤ 1
    · rw [if_pos hl]
      rw [hostWaitFor, hostRead_idle (by rfl), HostRun.bind_ok]
      simp only [State.readReg_status, statusWord_busy, State.complete_busy, Bool.false_eq_true, if_false]
      exact ⟨[_, _], by simp [State.answer, State.complete]; exact ⟨rfl, rfl⟩⟩
    · rw [if_neg hl]
      obtain ⟨seen, e⟩ := ih ((s.answer s.statusWord).countDown) (by simpa using hb) (by simp; omega) (by simp; omega)
      refine ⟨s.statusWord :: seen, ?_⟩
      rw [e]
      simp [State.answer, State.complete, State.countDown]

/-- One command from the host: the operand is written, the word issued and waited for; the block ends idle, with the
command's result on that operand (42_codec.md R170, R171). -/
theorem hostRun_spec {s : State} (hb : s.busy = false) (i : Instr) (L : Operand) :
    ∃ t, hostRun i L s = .ok () t ∧ t.busy = false ∧ t.done = true ∧ t.cmd = encode i ∧ t.port = s.port ∧
      t.ovr = false ∧ t.result = wordResult (encode i) L := by
  have hLAT : Config.LAT ≤ Config.LAT ∧ 1 ≤ Config.LAT := by simp [Config.LAT]
  simp only [hostRun, hostWrite_inLo_idle hb, HostRun.bind_ok]
  rw [hostWrite_inHi_idle (by exact hb), HostRun.bind_ok, hostIssue_idle (by exact hb), HostRun.bind_ok, hostWait]
  obtain ⟨seen, e⟩ := hostWaitFor_busy Config.LAT
    (State.issue { s with inLo := lowWord L, inHi := highWord L } (encode i)) rfl hLAT.1 hLAT.2
  refine ⟨_, e, rfl, rfl, rfl, rfl, rfl, ?_⟩
  have hop : State.operand { s with inLo := lowWord L, inHi := highWord L } = L := by simp [State.operand]
  simp [State.result, State.out, State.complete, State.issue, hop]

/-- Reading the two halves of OUT with no command in flight. -/
theorem hostReadOut_idle {s : State} (hb : s.busy = false) :
    hostReadOut s = .ok s.out ((s.answer s.outLo).answer s.outHi) := by
  rw [hostReadOut, hostRead_idle hb, HostRun.bind_ok, hostRead_idle (by simpa using hb), HostRun.bind_ok]
  simp [State.out]

end Sys2Proof.Machine
end

