-- ==== Sys2Proof/Laws/Trace.lean ====
section
/-! SUPPORT. What the evaluated terms of the checks give: the checks of Flags.lean, and the result of a decode. -/

namespace Sys2Proof.Machine

@[simp] theorem mask_true {n : Nat} : (mask true : BitVec n) = BitVec.allOnes n := rfl
@[simp] theorem mask_false {n : Nat} : (mask false : BitVec n) = 0 := rfl

theorem anyTerm_eq (ts : Terms) : anyTerm ts = ts.any Prod.snd := by
  induction ts with
  | nil => rfl
  | cons t ts ih => simpa [anyTerm] using congrArg (t.2 || ·) ih

theorem allTerms_eq (ts : Terms) : allTerms ts = ts.all Prod.snd := by
  induction ts with
  | nil => rfl
  | cons t ts ih => simpa [allTerms] using congrArg (t.2 && ·) ih

theorem sumTerms_append (ts us : Terms) : sumTerms (ts ++ us) = sumTerms ts + sumTerms us := by
  induction ts with
  | nil => simp [sumTerms]
  | cons t ts ih =>
    have h : sumTerms (t :: ts ++ us) = t.2.toNat + sumTerms (ts ++ us) := rfl
    rw [h, ih, ← Nat.add_assoc]
    rfl

/-- The INVALID terms decide the INVALID check (42_codec.md R152). -/
theorem anyTerm_invalidTerms (m : Nat) (cls : Nat → LaneClass) : anyTerm (invalidTerms m cls) = anyInvalid m cls := by
  simp [anyTerm_eq, invalidTerms, anyInvalid, List.any_map, Function.comp_def]

/-- One more lane: its term counts exactly when all the lanes up to it are VALID. -/
theorem leadingValid_succ (m : Nat) (cls : Nat → LaneClass) :
    leadingValid (m + 1) cls =
      leadingValid m cls + ((List.range (m + 1)).all fun i => cls i == .valid).toNat := by
  have hall : leadingValid m cls = m ↔ ∀ i, i < m → cls i = .valid :=
    ⟨fun h _ hi => leadingValid_valid (m := m) (by omega),
      fun h => leadingValid_eq (Nat.le_refl _) h fun hm => absurd hm (by omega)⟩
  have hs : leadingValid (m + 1) cls =
      if leadingValid m cls = m then m + (cls m == .valid).toNat else leadingValid m cls := by
    unfold leadingValid
    rw [List.range_succ, List.takeWhile_append, List.length_range]
    split
    · cases hv : cls m == .valid <;> simp [hv]
    · rfl
  rw [hs]
  split
  · next h =>
    have hm := hall.mp h
    have he : ((List.range (m + 1)).all fun i => cls i == .valid) = (cls m == .valid) := by
      rw [List.range_succ, List.all_append, show ((List.range m).all fun i => cls i == .valid) = true by simpa using hm]
      simp
    rw [he, h]
  · next h =>
    have he : ((List.range (m + 1)).all fun i => cls i == .valid) = false := by
      rw [Bool.eq_false_iff]
      exact fun ha => h (hall.mpr fun i hi => by simpa using List.all_eq_true.mp ha i (by simp; omega))
    rw [he]
    rfl

/-- The leading terms sum to the number of leading VALID lanes (42_codec.md R150). -/
theorem sumTerms_leadingTerms (m : Nat) (cls : Nat → LaneClass) :
    sumTerms (leadingTerms m cls) = leadingValid m cls := by
  induction m with
  | zero => rfl
  | succ m ih =>
    have h : leadingTerms (m + 1) cls =
        leadingTerms m cls ++ [(.leading m, (List.range (m + 1)).all fun i => cls i == .valid)] := by
      simp [leadingTerms, List.range_succ]
    rw [h, sumTerms_append, ih, leadingValid_succ]
    simp [sumTerms]

/-- The placement terms decide the placement check (42_codec.md R153). -/
theorem allTerms_placementTerms (m k : Nat) (cls : Nat → LaneClass) :
    allTerms (placementTerms m k cls) = padPlacement m k cls := by
  simp [allTerms_eq, placementTerms, padPlacement, List.all_map, Function.comp_def]

/-- The count terms decide the count check (42_codec.md R154). -/
theorem anyTerm_countTerms (A : Family) (final : Bool) (m k : Nat) :
    anyTerm (countTerms A final m k) = padCount A final m k := by
  have hG : A.groupSize ∈ legalCounts A := by cases A <;> decide
  rw [anyTerm_eq, Bool.eq_iff_iff, padCount_iff]
  simp only [countTerms, countTargets, List.any_map, List.any_eq_true, Function.comp_def, Bool.and_eq_true, beq_iff_eq,
    decide_eq_true_eq]
  cases final with
  | false =>
    simp only [Bool.false_eq_true, if_false, List.mem_singleton, false_and, or_false, true_and]
    exact ⟨fun ⟨_, hn, hk, _⟩ => hk.trans hn, fun hk => ⟨_, rfl, hk, hG⟩⟩
  | true =>
    by_cases hm : m = A.groupSize
    · simp [hm]
    · simp only [if_true, hm, if_false, List.mem_singleton, false_or, true_and]
      grind

/-- The ghost terms decide the ghost check (42_codec.md R155). -/
theorem anyTerm_ghostTerms (A : Family) (k : Nat) (idx : Nat → Byte) :
    anyTerm (ghostTerms A k idx) = ghostClear A k idx := by
  rw [anyTerm_eq, Bool.eq_iff_iff, ghostClear_iff]
  simp only [ghostTerms, List.any_map, List.any_eq_true, Function.comp_def, Bool.and_eq_true, beq_iff_eq]
  exact ⟨fun ⟨n, hn, hk, hg⟩ => hk ▸ ⟨hn, hg⟩, fun ⟨hk, hg⟩ => ⟨k, hk, rfl, hg⟩⟩

/-! Which terms a check evaluates does not depend on what they give. -/

theorem checksOf_append (ts us : Terms) : checksOf (ts ++ us) = checksOf ts ++ checksOf us := by simp [checksOf]

theorem checksOf_invalidTerms (m : Nat) (cls : Nat → LaneClass) :
    checksOf (invalidTerms m cls) = (List.range m).map fun j => .check (.invalid j) := by
  simp [checksOf, invalidTerms]

theorem checksOf_leadingTerms (m : Nat) (cls : Nat → LaneClass) :
    checksOf (leadingTerms m cls) = (List.range m).map fun j => .check (.leading j) := by
  simp [checksOf, leadingTerms]

theorem checksOf_placementTerms (m k : Nat) (cls : Nat → LaneClass) :
    checksOf (placementTerms m k cls) = (List.range m).map fun j => .check (.placement j) := by
  simp [checksOf, placementTerms]

theorem checksOf_countTerms (A : Family) (final : Bool) (m k : Nat) :
    checksOf (countTerms A final m k) = (countTargets A final m).map fun n => .check (.count n) := by
  simp [checksOf, countTerms]

theorem checksOf_ghostTerms (A : Family) (k : Nat) (idx : Nat → Byte) :
    checksOf (ghostTerms A k idx) = (legalCounts A).map fun n => .check (.ghost n) := by
  simp [checksOf, ghostTerms]

/-- The masks select the failure of the INVALID check, whatever the others give (60_exceptions.md R184). -/
theorem selectDecode_invalid (good : Bool) (r : Result) :
    selectDecode true good r = .failed .invalidEncodingChar r.cls := by
  cases good <;> simp [selectDecode, Result.failed, ErrClass.ofCode]

/-- The masks select BadPadding where only another check fails. -/
theorem selectDecode_badPadding (r : Result) : selectDecode false false r = .failed .badPadding r.cls := by
  simp [selectDecode, Result.failed, ErrClass.ofCode]

/-- The masks select the success where no check fails. -/
theorem selectDecode_success (A : Family) (k : Nat) (idx : Nat → Byte) (cls : BitVec 16) :
    selectDecode false true (decodeSuccess A k idx cls) = decodeSuccess A k idx cls := by
  have h : ∀ {n : Nat} (x : BitVec n), mask true &&& x = x := fun x => BitVec.allOnes_and
  simp only [selectDecode, Bool.not_false, Bool.true_and, h]
  rfl

/-- The decode by evaluated terms and masks is the decode (42_codec.md R140, R150). -/
theorem selectDecode_eq (A : Family) (final : Bool) (m : Nat) (look : Nat → LaneClass × Byte) :
    let cls := presentClass m look
    let idx := presentIndex m look
    let k := sumTerms (leadingTerms m cls)
    selectDecode (anyTerm (invalidTerms m cls))
        (allTerms (placementTerms m k cls) && anyTerm (countTerms A final m k) && anyTerm (ghostTerms A k idx))
        (decodeSuccess A k idx (packClasses cls)) = decodeResult A final m look := by
  intro cls idx k
  have hk : k = leadingValid m cls := sumTerms_leadingTerms m cls
  rw [hk, anyTerm_invalidTerms, allTerms_placementTerms, anyTerm_countTerms, anyTerm_ghostTerms]
  rcases decodeResult_cases A final m look with ⟨h, e⟩ | ⟨h, h1, h2, h3, e⟩ | ⟨h, h1, e⟩
  · rw [e, h, selectDecode_invalid]
    rfl
  · rw [e, h, h1, h2, h3]
    exact selectDecode_success A _ idx _
  · rw [e, h, h1, selectDecode_badPadding]
    rfl

end Sys2Proof.Machine
end

