-- ==== Sys2Proof/Tests/Slice0.lean ====
section
/-! SUPPORT. Tests of the model against the vectors of 95_test_vectors.md (W2 to W7, V1 to V112) and words written out
from 30_encoding.md R56 and R59, and a witness for the hypotheses of every obligation. -/

namespace Sys2Proof.Machine

/-! ## WellFormed refuses every ill-formed term -/

theorem test_wf_refuses_enc64_counts : ¬WellFormed (.enc64 0) ∧ ¬WellFormed (.enc64 4) ∧ ¬WellFormed (.enc64 15) := by decide
theorem test_wf_refuses_enc32_counts : ¬WellFormed (.enc32 0) ∧ ¬WellFormed (.enc32 6) ∧ ¬WellFormed (.enc32 15) := by decide
theorem test_wf_refuses_dec64f_counts : ¬WellFormed (.dec64f 0) ∧ ¬WellFormed (.dec64f 5) ∧ ¬WellFormed (.dec64f 15) := by decide
theorem test_wf_refuses_dec32f_counts : ¬WellFormed (.dec32f 0) ∧ ¬WellFormed (.dec32f 9) ∧ ¬WellFormed (.dec32f 15) := by decide
theorem test_wf_takes_the_bounds : WellFormed (.enc64 3) ∧ WellFormed (.enc32 5) ∧ WellFormed (.dec64f 4) ∧
    WellFormed (.dec32f 8) := by decide

/-! ## One word of every constructor, bit by bit: RSV, F, N, A, FN (30_encoding.md R56, R59) -/

theorem test_decode_clr : decode (0b00000000000000000000000000000000 : Word) = .ok .clr := by decide
theorem test_decode_sym64 : decode (0b00000000000000000000000000000001 : Word) = .ok .sym64 := by decide
theorem test_decode_sym32 : decode (0b00000000000000000000000000001001 : Word) = .ok .sym32 := by decide
theorem test_decode_idx64 : decode (0b00000000000000000000000000000010 : Word) = .ok .idx64 := by decide
theorem test_decode_idx32 : decode (0b00000000000000000000000000001010 : Word) = .ok .idx32 := by decide
theorem test_decode_split64 : decode (0b00000000000000000000000000000011 : Word) = .ok .split64 := by decide
theorem test_decode_split32 : decode (0b00000000000000000000000000001011 : Word) = .ok .split32 := by decide
theorem test_decode_join64 : decode (0b00000000000000000000000000000100 : Word) = .ok .join64 := by decide
theorem test_decode_join32 : decode (0b00000000000000000000000000001100 : Word) = .ok .join32 := by decide
theorem test_decode_enc64 : decode (0b00000000000000000000000000100101 : Word) = .ok (.enc64 2) := by decide
theorem test_decode_enc32 : decode (0b00000000000000000000000001011101 : Word) = .ok (.enc32 5) := by decide
theorem test_decode_dec64 : decode (0b00000000000000000000000001000110 : Word) = .ok .dec64 := by decide
theorem test_decode_dec64f : decode (0b00000000000000000000000100110110 : Word) = .ok (.dec64f 3) := by decide
theorem test_decode_dec32 : decode (0b00000000000000000000000010001110 : Word) = .ok .dec32 := by decide
theorem test_decode_dec32f : decode (0b00000000000000000000000110001110 : Word) = .ok (.dec32f 8) := by decide

/-- V88 to V102: an illegal word is rejected, by its condition of 30_encoding.md R60. -/
theorem test_decode_illegal_words :
    decode 0x00000007 = .error .reservedFunction ∧ decode 0x00000008 = .error .clrFields ∧
      decode 0x00000011 = .error .unusedFields ∧ decode 0x00000101 = .error .unusedFields ∧
      decode 0x00000005 = .error .encodeFields ∧ decode 0x00000045 = .error .encodeFields ∧
      decode 0x0000006D = .error .encodeFields ∧ decode 0x00000135 = .error .encodeFields ∧
      decode 0x00000036 = .error .decodeCount ∧ decode 0x00000106 = .error .decodeFinalCount ∧
      decode 0x00000156 = .error .decodeFinalCount ∧ decode 0x0000019E = .error .decodeFinalCount ∧
      decode 0x00000200 = .error .reservedBits ∧ decode 0x80000035 = .error .reservedBits ∧
      decode 0xFFFFFFFF = .error .reservedBits := by decide

/-- The table word of a row, as the host gives it. -/
theorem test_decodeTableWord : decodeTableWord 32 0x18E = some (.dec32f 8) ∧ decodeTableWord 32 0x200 = none := by decide

/-! ## One completing step of every command: OUT_LO, OUT_HI, STATUS of 95_test_vectors.md -/

/-- OUT_LO, OUT_HI and STATUS after the step that completes word `w` on the operand, from reset. -/
def ran (w : Nat) (lo hi : Word) : Option (Word × Word × Word) :=
  match step (State.withFetchWord { State.reset with inLo := lo, inHi := hi } 32 w) with
  | .next t => some (t.outLo, t.outHi, t.statusWord)
  | _ => none

/-- V10. -/
theorem test_clr : ran 0x0 0x75465754 0x75465754 = some (0x0, 0x0, 0x2) := by decide
/-- V1. -/
theorem test_sym64_ranges : ran 0x1 0x331A1900 0x3F3E3D34 = some (0x7A615A41, 0x2F2B3930, 0x102) := by decide
/-- V2. -/
theorem test_sym64_masks : ran 0x1 0xC080FF40 0x516137F = some (0x41412F41, 0x4657542F, 0x102) := by decide
/-- V3. -/
theorem test_sym32 : ran 0x9 0x1F1A1900 0x180CFF20 = some (0x37325A41, 0x594D3741, 0x102) := by decide
/-- V4. -/
theorem test_idx64_mixed : ran 0x2 0x75465754 0x2F61213D = some (0x2E051613, 0x3F1A0000, 0x900010A) := by decide
/-- V6. -/
theorem test_idx64_pads : ran 0x2 0x3D3D3D3D 0x3D3D3D3D = some (0x0, 0x0, 0x55550102) := by decide
/-- V8. -/
theorem test_idx32 : ran 0xA 0x3732594D 0x613D3130 = some (0x1F1A180C, 0x0, 0x9A00010A) := by decide
/-- V11. -/
theorem test_split64 : ran 0x3 0xAA6E614D 0xEEDDCCBB = some (0x2E051613, 0x0, 0x82) := by decide
/-- V14. -/
theorem test_split32 : ran 0xB 0x626F6F66 0x61 = some (0x1617190C, 0x113181E, 0x102) := by decide
/-- V17. -/
theorem test_join64_masks : ran 0x4 0xFFFFFFFF 0xFFFFFFFF = some (0xFFFFFF, 0x0, 0x62) := by decide
/-- V16. -/
theorem test_join64 : ran 0x4 0x2E051613 0x99999999 = some (0x6E614D, 0x0, 0x62) := by decide
/-- V19. -/
theorem test_join32 : ran 0xC 0x161739EC 0xE113181E = some (0x626F6F66, 0x61, 0xA2) := by decide
/-- W2, V20. -/
theorem test_enc64_full : ran 0x35 0x6E614D 0x0 = some (0x75465754, 0x0, 0x82) := by decide
/-- V24. -/
theorem test_enc64_one : ran 0x15 0xFFFFFFFF 0xFFFFFFFF = some (0x3D3D772F, 0x0, 0x82) := by decide
/-- V30. -/
theorem test_enc32_four : ran 0x4D 0x626F6F66 0x61 = some (0x57585A4D, 0x3D515936, 0x102) := by decide
/-- V33. -/
theorem test_enc32_one : ran 0x1D 0x72 0x0 = some (0x3D3D494F, 0x3D3D3D3D, 0x102) := by decide
/-- V39. -/
theorem test_dec64_ignores_absent : ran 0x46 0x75465754 0x21212121 = some (0x6E614D, 0x0, 0xFF000062) := by decide
/-- V35. -/
theorem test_dec64_pad : ran 0x46 0x3D455754 0x0 = some (0x0, 0x0, 0xFF400012) := by decide
/-- W5, V47. -/
theorem test_dec64f_ghost : ran 0x146 0x3D3D5754 0x0 = some (0x0, 0x0, 0xFF500012) := by decide
/-- V56. -/
theorem test_dec64f_unpadded : ran 0x136 0x455754 0x0 = some (0x614D, 0x0, 0xFFC00042) := by decide
/-- V40. -/
theorem test_dec32_full : ran 0x8E 0x57585A4D 0x42545936 = some (0x626F6F66, 0x61, 0xA2) := by decide
/-- V43. -/
theorem test_dec32_lower_case : ran 0x8E 0x77787A6D 0x62747936 = some (0x0, 0x0, 0xA8AA000A) := by decide
/-- V68. -/
theorem test_dec32f_three : ran 0x18E 0x57585A4D 0x3D3D3D36 = some (0x6F6F66, 0x0, 0x54000062) := by decide
/-- V86. -/
theorem test_dec32f_six : ran 0x16E 0x57585A4D 0x5936 = some (0x0, 0x0, 0xF0000012) := by decide
/-- V101: a reserved bit makes the word illegal, whatever the operand. -/
theorem test_illegal_word : ran 0x80000035 0x6E614D 0 = some (0, 0, 6) := by decide

/-! ## The port: one step each -/

/-- One step with an access presented, from a state. -/
def after (a : HostAccess) (s : State) : Option State :=
  match step (s.presenting a) with
  | .next t => some t
  | _ => none

/-- V103, V104: every register and every reserved offset reads 0 after reset. -/
theorem test_reset_reads_zero : ∀ off ∈ [0x00, 0x04, 0x08, 0x0C, 0x10, 0x14, 0x18, 0x20, 0x3C],
    (after (.read off 4) .reset).map State.answers = some [0] := by decide

/-- V105 to V107: writes of STATUS, OUT and a reserved offset are ignored. -/
theorem test_ignored_writes : ∀ off ∈ [0x04, 0x10, 0x14, 0x18],
    after (.write off 4 0xFFFFFFFF) .reset = some .reset := by decide

/-- V108: IN_LO reads back. -/
theorem test_operand_reads_back :
    ((after (.write 0x08 4 0x12345678) .reset).bind (after (.read 0x08 4))).map State.answers = some [0x12345678] := by
  decide

/-- V111: STATUS in the cycle after an issue. -/
theorem test_status_after_issue :
    (after (.write 0x00 4 0x00000001) .reset).map State.statusWord = some 0x00000001 := by decide

/-- P6: a write of CMD while BUSY leaves CMD and sets OVR; here in the last cycle, so that ENC64 3 completes too. -/
theorem test_dropped_issue :
    (after (.write 0x00 4 0x00000015)
        { State.reset with busy := true, cmd := 0x35, lcmd := 0x35, lin := 0x6E614D, cnt := 1 }).map
      (fun t => (t.cmd, t.outLo, t.statusWord)) = some (0x00000035, 0x75465754, 0x00000282) := by decide

/-- V112: reset abandons a command in its last cycle. -/
theorem test_reset_in_flight :
    step { State.reset with busy := true, cmd := 0x35, lcmd := 0x35, lin := 0x6E614D, inLo := 1, cnt := 1, port := [⟨true, none⟩] } =
      .next .reset := by rfl

/-! ## The constant-time form -/

/-- W5: "TW==" by evaluated terms and masks is BadPadding. -/
theorem test_masked_decode : (wordProbed 0x146 0x3D3D5754).1 = .failed .badPadding 0xFF50 := by decide

/-- 40_lookup.md R105: the pad comparator works although entry 19 hits 'T'. -/
theorem test_pad_compared : (classifyScan .base64 0x54).1 = (.valid, 19) ∧ .pad ∈ (classifyScan .base64 0x54).2 := by
  decide

/-! ## The host sequences without a command (W1) -/

/-- W1: encode of no bytes issues nothing. -/
theorem test_encode_nothing : hostEncode .base64 (fun _ _ => 0xA5) [] 0 .reset = .ok [] .reset := by decide
/-! ## Witnesses: the hypotheses of each obligation are met, clause by clause -/

/-- LegalWordsAreTheTable: a word of the table and a word of no row. -/
theorem witness_legalWords :
    ((0x0000018E : Word), Instr.dec32f 8) ∈ legalWords ∧ ∀ i, ((0x00000007 : Word), i) ∉ legalWords := by
  refine ⟨by decide, fun i h => ?_⟩
  have hw : (0x00000007 : Word) ∉ legalWords.map Prod.fst := by decide
  exact hw (List.mem_map.mpr ⟨_, h, rfl⟩)

/-- DecodeIffEncodedWellFormed: both sides hold at the bounds of a count. -/
theorem witness_decode_iff : decode 0x00000015 = .ok (.enc64 1) ∧ WellFormed (.enc64 1) ∧ encode (.enc64 1) = 0x00000015 ∧
    decode 0x0000018E = .ok (.dec32f 8) ∧ WellFormed (.dec32f 8) ∧ encode (.dec32f 8) = 0x0000018E := by decide

/-- IllegalExactlyUnderListedConditions: both sides hold of one word and fail of another. -/
theorem witness_illegal : (∃ e, decode 0x00000045 = .error e) ∧ ¬∃ e, decode 0x00000035 = .error e := by
  refine ⟨⟨.encodeFields, by decide⟩, fun ⟨e, h⟩ => ?_⟩
  have h35 : decode 0x00000035 = .ok (.enc64 3) := by decide
  rw [h35] at h
  exact nomatch h

/-- AlphabetsAreBijections: the last index of each family, and VALID bytes. -/
theorem witness_alphabets : 63 < 2 ^ Family.base64.width ∧ 31 < 2 ^ Family.base32.width ∧
    (classify .base64 0x2F).1 = .valid ∧ (classify .base32 0x37).1 = .valid := by decide

/-- PackingIsInvertible: the last byte and the last index of each family. -/
theorem witness_packing : 2 < Family.base64.rawBytes ∧ 3 < Family.base64.groupSize ∧ 4 < Family.base32.rawBytes ∧
    7 < Family.base32.groupSize := by decide

/-- IdxClassifiesEveryLane: an operand with an INVALID lane, and one of VALID and PAD lanes only, in both families. -/
theorem witness_idx : (classify .base64 (lane 0x2F61213D75465754 5)).1 = .invalid ∧
    (∀ j, j < 8 → (classify .base64 (lane 0x3D3D3D3D75465754 j)).1 ≠ .invalid) ∧
    (classify .base32 (lane 0x613D31303732594D 7)).1 = .invalid ∧
    (∀ j, j < 8 → (classify .base32 (lane 0x5A5942413D325A41 j)).1 ≠ .invalid) := by decide

/-- SplitCarriesTheBitStream, JoinCarriesTheBitStream: the last bit, the last index, a lane beyond. -/
theorem witness_bitpack : 23 < 8 * Family.base64.rawBytes ∧ 39 < 8 * Family.base32.rawBytes ∧
    Family.base64.groupSize ≤ 7 ∧ Family.base32.rawBytes ≤ 5 := by decide

/-- EncEmitsSymbolsThenPads, EncodeAlphabetClosure: the bounds of both families. -/
theorem witness_enc : encodeForm (.enc64 1) = some (.base64, 1) ∧ WellFormed (.enc64 1) ∧
    encodeForm (.enc64 3) = some (.base64, 3) ∧ WellFormed (.enc64 3) ∧ encodeForm (.enc32 1) = some (.base32, 1) ∧
    WellFormed (.enc32 1) ∧ encodeForm (.enc32 5) = some (.base32, 5) ∧ WellFormed (.enc32 5) := by decide

/-- DecSucceedsOnAcceptedGroups: "TWFu" as a non-final group. -/
theorem witness_dec64 : decodeForm .dec64 = some (.base64, false, 4) ∧ WellFormed .dec64 ∧
    AcceptedGroup .base64 false 4 0x75465754 4 :=
  ⟨by decide, by decide, by decide, by decide, by decide, by decide, by decide, by decide, by decide⟩

/-- DecSucceedsOnAcceptedGroups: "TQ" unpadded, and "TQ==". -/
theorem witness_dec64f : decodeForm (.dec64f 2) = some (.base64, true, 2) ∧ WellFormed (.dec64f 2) ∧
    AcceptedGroup .base64 true 2 0x5154 2 ∧ WellFormed (.dec64f 4) ∧ AcceptedGroup .base64 true 4 0x3D3D5154 2 :=
  ⟨by decide, by decide, ⟨by decide, by decide, by decide, by decide, by decide, by decide, by decide⟩, by decide,
    ⟨by decide, by decide, by decide, by decide, by decide, by decide, by decide⟩⟩

/-- DecSucceedsOnAcceptedGroups: "MZXW6YTB" as a non-final group. -/
theorem witness_dec32 : decodeForm .dec32 = some (.base32, false, 8) ∧ WellFormed .dec32 ∧
    AcceptedGroup .base32 false 8 0x4254593657585A4D 8 :=
  ⟨by decide, by decide, by decide, by decide, by decide, by decide, by decide, by decide, by decide⟩

/-- DecSucceedsOnAcceptedGroups: "MY======", and "MZXW6YQ" unpadded. -/
theorem witness_dec32f : decodeForm (.dec32f 8) = some (.base32, true, 8) ∧ WellFormed (.dec32f 8) ∧
    AcceptedGroup .base32 true 8 0x3D3D3D3D3D3D594D 2 ∧ WellFormed (.dec32f 7) ∧
    AcceptedGroup .base32 true 7 0x51593657585A4D 7 :=
  ⟨by decide, by decide, ⟨by decide, by decide, by decide, by decide, by decide, by decide, by decide⟩, by decide,
    ⟨by decide, by decide, by decide, by decide, by decide, by decide, by decide⟩⟩

/-- DecFailsOnInvalidLane: "T!FU", and an INVALID lane that is the last one present. -/
theorem witness_dec_invalid : decodeForm (.dec64f 4) = some (.base64, true, 4) ∧ WellFormed (.dec64f 4) ∧
    (classify .base64 (lane 0x55462154 1)).1 = .invalid ∧ decodeForm .dec32 = some (.base32, false, 8) ∧
    (classify .base32 (lane 0x2154593657585A4D 7)).1 = .invalid := by decide

/-- DecFailsOnBadPadding: "TW==" has no INVALID lane and is accepted with no number of data symbols. -/
theorem witness_dec_badPadding : decodeForm (.dec64f 4) = some (.base64, true, 4) ∧ WellFormed (.dec64f 4) ∧
    (∀ j, j < 4 → (classify .base64 (lane 0x3D3D5754 j)).1 ≠ .invalid) ∧
    ∀ k, ¬AcceptedGroup .base64 true 4 0x3D3D5754 k := by
  refine ⟨by decide, by decide, by decide, fun k h => ?_⟩
  have hk : k = 4 ∨ k = 3 ∨ k = 2 := by simpa [legalCounts] using h.legal
  obtain rfl | rfl | rfl := hk
  · exact absurd (h.data 3 (by decide)) (by decide)
  · exact absurd (h.data 2 (by decide)) (by decide)
  · exact absurd h.ghosts (by decide)

/-- IllFormedTermsCompleteAsIllegal. -/
theorem witness_illFormed : ¬WellFormed (.enc64 0) ∧ ¬WellFormed (.dec32f 9) := by decide

/-- LayersCompose: both clauses in Base64, "TWFu" and its indices. -/
theorem witness_layers : (∃ s t u : State, u.lin = t.out ∧ exec .split64 s = .next t ∧ u.lin = 0x2E051613) ∧
    ∃ s t u : State, u.lin = t.out ∧ exec .idx64 s = .next t ∧
      (∀ j, j < Family.base64.groupSize → (classify .base64 (lane s.lin j)).1 = .valid) :=
  ⟨⟨{ State.reset with lin := 0x6E614D }, State.complete { State.reset with lin := 0x6E614D } (splitBlock .base64 0x6E614D),
      { State.reset with lin := 0x2E051613 }, by decide, rfl, rfl⟩,
    { State.reset with lin := 0x75465754 }, State.complete { State.reset with lin := 0x75465754 } (idxLanes .base64 0x75465754),
    { State.reset with lin := (idxLanes .base64 0x75465754).out }, by decide, rfl, by decide⟩

/-- LayersCompose: both clauses in Base32, "MZXW6YTB" and its indices. -/
theorem witness_layers32 : (∃ s t u : State, u.lin = t.out ∧ exec .split32 s = .next t) ∧
    ∃ s t u : State, u.lin = t.out ∧ exec .idx32 s = .next t ∧
      (∀ j, j < Family.base32.groupSize → (classify .base32 (lane s.lin j)).1 = .valid) :=
  ⟨⟨State.reset, State.complete State.reset (splitBlock .base32 0), { State.reset with lin := (splitBlock .base32 0).out },
      by decide, rfl⟩,
    { State.reset with lin := 0x4254593657585A4D },
    State.complete { State.reset with lin := 0x4254593657585A4D } (idxLanes .base32 0x4254593657585A4D),
    { State.reset with lin := (idxLanes .base32 0x4254593657585A4D).out }, by decide, rfl, by decide⟩

/-- GroupRoundTrip: the bounds of `r`, and the encoded group as the next operand. -/
theorem witness_groupRoundTrip : (1 ≤ 5 ∧ 5 ≤ Family.base32.rawBytes ∧ 1 ≤ 1 ∧ 3 ≤ Family.base64.rawBytes) ∧
    ∃ t u : State, exec (encodeInstr .base64 1) { State.reset with lin := 0x4D } = .next t ∧ u.lin = t.out ∧
      u.lin = 0x3D3D5154 :=
  ⟨by decide, State.complete { State.reset with lin := 0x4D } (commandResult (.enc64 1) 0x4D),
    { State.reset with lin := 0x3D3D5154 }, rfl, by decide, rfl⟩

/-- AcceptedGroupIsCanonical: "TQ" decodes as an unpadded final group. -/
theorem witness_canonical : 1 ≤ 2 ∧ 2 ≤ Family.base64.groupSize ∧
    ∃ t u : State, exec (decodeFinalInstr .base64 2) { State.reset with lin := 0x5154 } = .next t ∧ t.err = .ok ∧
      u.lin = t.out ∧ u.lin = 0x4D :=
  ⟨by decide, by decide, State.complete { State.reset with lin := 0x5154 } (commandResult (.dec64f 2) 0x5154),
    { State.reset with lin := 0x4D }, rfl, by decide, by decide, rfl⟩

/-- WindowOffsetsCountFromBase: the first and the last offset. -/
theorem witness_window : (0 : Nat) < 64 ∧ (63 : Nat) < 64 ∧ Config.BASE = Config.BASE + 0 := by
  refine ⟨by decide, by decide, rfl⟩

/-- ReadsAnswerTheMapAndChangeNothing, OperandWritesAndIgnoredWrites, ResetCycleClearsEverything: the first and last
offsets, a reserved one, an ignored one and both operand registers. -/
theorem witness_offsets : ∀ off ∈ [0x00, 0x04, 0x08, 0x0C, 0x14, 0x18, 0x3C], off < 64 ∧ off % 4 = 0 := by decide

/-- A state with ENC64 3 in its last cycle and `c` presented, OVR as given. -/
def lastCycle (c : PortCycle) (ovr : Bool) : State :=
  { State.reset with cmd := 0x35, lcmd := 0x35, lin := 0x6E614D, busy := true, ovr := ovr, cnt := 1, port := [c] }

/-- AcceptedIssueLatches, UniformLatency: an idle block, an issue presented and a defined access after it; both ends of
the count of cycles. -/
theorem witness_issue : ∃ s : State, s.busy = false ∧
    s.port = ⟨false, some (.write 0x00 4 0x35)⟩ :: [⟨false, some (.read 0x04 4)⟩] ∧
    (∀ c, c ∈ [(⟨false, some (.read 0x04 4)⟩ : PortCycle)] → c.reset = false ∧ c.Defined) ∧
    0 ≤ Config.LAT ∧ 0 < Config.LAT ∧ Config.LAT ≤ Config.LAT := by
  refine ⟨{ State.reset with port := ⟨false, some (.write 0x00 4 0x35)⟩ :: [⟨false, some (.read 0x04 4)⟩] }, rfl, rfl,
    fun c hc => ?_, Nat.zero_le _, Nat.succ_pos _, Nat.le_refl _⟩
  obtain rfl : c = ⟨false, some (.read 0x04 4)⟩ := by simpa using hc
  exact ⟨rfl, fun a ha => by injection ha with ha; subst ha; exact ⟨by decide, rfl, rfl⟩⟩

/-- DroppedIssueSetsOnlyOvr, and the drop clause of OvrRecordsADrop: a write of CMD with a command in flight. -/
theorem witness_drop : (lastCycle ⟨false, some (.write 0x00 4 0x15)⟩ false).busy = true ∧
    ∃ t, step (lastCycle ⟨false, some (.write 0x00 4 0x15)⟩ false) = .next t ∧ t.ovr = true :=
  ⟨rfl, _, rfl, rfl⟩

/-- OvrRecordsADrop: OVR kept by a cycle that does not issue, cleared by reset and by an accepted issue. -/
theorem witness_ovr : (∃ t, step (lastCycle idleCycle true) = .next t ∧ t.ovr = true) ∧
    (∃ t, step (lastCycle ⟨true, none⟩ true) = .next t ∧ t.ovr = false) ∧
    ∃ t, step { lastCycle ⟨false, some (.write 0x00 4 0)⟩ true with busy := false } = .next t ∧ t.ovr = false :=
  ⟨⟨_, rfl, rfl⟩, ⟨_, rfl, rfl⟩, ⟨_, rfl, rfl⟩⟩

/-- StepRunsTheDecodedCommand: nothing presented, and a write of IN_LO presented. -/
theorem witness_stepRuns : decode (0x35 : Word) = .ok (.enc64 3) ∧
    (∃ s : State, s.lcmd = 0x35 ∧ s.busy = true ∧ s.cnt ≤ 1 ∧ s.port = []) ∧
    ∃ (s u : State) (c : PortCycle), s.lcmd = 0x35 ∧ s.busy = true ∧ s.cnt ≤ 1 ∧ s.port = c :: [] ∧ c.reset = false ∧
      portAccess c.access { s with port := [] } = .next u ∧ u.inLo = 7 :=
  ⟨by decide, ⟨{ lastCycle idleCycle false with port := [] }, by decide⟩,
    lastCycle ⟨false, some (.write 0x08 4 7)⟩ false, { lastCycle idleCycle false with port := [], inLo := 7 },
    ⟨false, some (.write 0x08 4 7)⟩, rfl, rfl, by decide, rfl, rfl, rfl, rfl⟩

/-- IllegalWordCompletesWithIll: an illegal word in its last cycle, nothing presented. -/
theorem witness_illegalWord : ∃ s u : State, decode s.lcmd = .error .reservedFunction ∧ s.busy = true ∧ s.cnt ≤ 1 ∧
    idleCycle = s.port.headD idleCycle ∧ idleCycle.reset = false ∧
    portAccess idleCycle.access { s with port := s.port.tail } = .next u :=
  ⟨{ lastCycle idleCycle false with lcmd := 7 }, { lastCycle idleCycle false with lcmd := 7, port := [] }, by decide,
    by decide, by decide, by decide, rfl, rfl⟩

/-- ResultsDependOnLatchedWordAndOperand: two states that differ in everything else, the next access included. -/
theorem witness_resultsDepend : ∃ (s t : State) (c d : PortCycle), s.lcmd = t.lcmd ∧ s.lin = t.lin ∧ s.busy = true ∧
    t.busy = true ∧ s.cnt ≤ 1 ∧ t.cnt ≤ 1 ∧ c = s.port.headD idleCycle ∧ d = t.port.headD idleCycle ∧
    c.reset = false ∧ d.reset = false ∧ c.Defined ∧ d.Defined ∧ s.ovr ≠ t.ovr ∧ c ≠ d :=
  ⟨lastCycle idleCycle false, { lastCycle ⟨false, some (.read 0x3C 4)⟩ true with inLo := 9, outHi := 3 }, idleCycle,
    ⟨false, some (.read 0x3C 4)⟩, by decide, by decide, by decide, by decide, by decide, by decide, by decide,
    by decide, rfl, rfl, idleCycle_defined,
    fun a ha => by injection ha with ha; subst ha; exact ⟨by decide, rfl, rfl⟩, by decide, by decide⟩

/-- ResultsChangeOnlyAtCompletionOrReset: a completion and a cycle of reset that change the result registers. -/
theorem witness_resultsChange :
    (∃ t, step (lastCycle idleCycle false) = .next t ∧ t.result ≠ (lastCycle idleCycle false).result) ∧
      ∃ t, step { lastCycle ⟨true, none⟩ false with outLo := 5 } = .next t ∧
        t.result ≠ { lastCycle ⟨true, none⟩ false with outLo := 5 }.result :=
  ⟨⟨_, rfl, by decide⟩, ⟨_, rfl, by decide⟩⟩

/-- DefinedCyclesNeverStop: a defined access at the last offset, and no access. -/
theorem witness_defined : (⟨true, some (.read 0x3C 4)⟩ : PortCycle).Defined ∧ idleCycle.Defined :=
  ⟨fun a ha => by injection ha with ha; subst ha; exact ⟨by decide, rfl, rfl⟩, idleCycle_defined⟩

/-- UndefinedAccessesStop: each clause at the edge of the window. -/
theorem witness_undefined : (64 : Nat) ≤ 64 ∧ ((63 : Nat) < 64 ∧ 63 % 4 ≠ 0) ∧ ((60 : Nat) < 64 ∧ (2 : Nat) ≠ 4) := by
  decide

/-- StepKeepsInvariant: the reset state meets the invariant and steps. -/
theorem witness_inv : State.reset.Inv ∧ ∃ t, step State.reset = .next t :=
  ⟨⟨by decide, by decide, by decide, by decide, by decide, fun _ _ => by decide, by decide, by decide, by decide⟩,
    _, rfl⟩

/-- StepKeepsInvariant: a state with a command in flight meets the invariant and steps. -/
theorem witness_inv_busy : (State.reset.issue 0x35).Inv ∧ ∃ t, step (State.reset.issue 0x35) = .next t := by
  refine ⟨⟨by simp, fun _ => ⟨Nat.succ_pos _, Nat.le_refl _⟩, by simp, rfl, by simp, by simp, by decide, by decide,
    by decide⟩, ?_⟩
  rw [step_eq]
  exact ⟨_, clockCycle_busy (u := (State.reset.issue 0x35).taken) rfl rfl rfl⟩

/-- ControlDoesNotDependOnData: two states with different operands, whose next cycles write different data; the first
clause. -/
theorem witness_sameControl : ∃ s t : State, s.SameControl t ∧ s.lin ≠ t.lin ∧ ∃ s', step s = .next s' :=
  ⟨lastCycle ⟨false, some (.write 0x08 4 1)⟩ false, { lastCycle ⟨false, some (.write 0x08 4 2)⟩ false with lin := 5 },
    ⟨rfl, rfl, rfl, rfl, rfl, rfl, .cons ⟨rfl, rfl, rfl, fun h => absurd h (by decide)⟩ .nil⟩, by decide, _, rfl⟩

/-- ControlDoesNotDependOnData: the clauses on a fault and on a refusal. -/
theorem witness_sameControl_stops :
    (∃ s t : State, s.SameControl t ∧ step s = .fault (.outsideWindow 64) ∧ s.inLo ≠ t.inLo) ∧
      ∃ s t : State, s.SameControl t ∧ step s = .refused (.narrowAccess 8 2) ∧ s.inLo ≠ t.inLo :=
  ⟨⟨lastCycle ⟨false, some (.read 64 4)⟩ false, { lastCycle ⟨false, some (.read 64 4)⟩ false with inLo := 1 },
      ⟨rfl, rfl, rfl, rfl, rfl, rfl, .cons ⟨rfl, rfl, rfl⟩ .nil⟩, rfl, by decide⟩,
    ⟨lastCycle ⟨false, some (.write 8 2 1)⟩ false, { lastCycle ⟨false, some (.write 8 2 9)⟩ false with inLo := 1 },
      ⟨rfl, rfl, rfl, rfl, rfl, rfl, .cons ⟨rfl, rfl, rfl, fun h => absurd h (by decide)⟩ .nil⟩, rfl, by decide⟩⟩

/-- DecodedSizeForms: a whole number of groups. -/
theorem witness_sizes : 8 % Family.base64.groupSize = 0 ∧ 16 % Family.base32.groupSize = 0 := by decide

/-- ObservableTraceIgnoresOperand: two idle states with different operands and results, and enough cycles. -/
theorem witness_trace : ∃ s t : State, s.busy = false ∧ t.busy = false ∧ s.operand ≠ t.operand ∧ s.outLo ≠ t.outLo ∧
    Config.LAT < Config.LAT + 1 :=
  ⟨State.reset, { State.reset with inLo := 0x55462154, outLo := 7, done := true }, rfl, rfl, by decide, by decide,
    Nat.lt_succ_self _⟩

/-- StatusWordLayout: the last lane. -/
theorem witness_classLane : (7 : Nat) < 8 := by decide

/-- HostEncodeWritesExactSize, HostRoundTrip, and the clause of HostDecodeEndsScrubbed that runs: an idle block and
buffers of exactly the size asked for, with whole groups and without. -/
theorem witness_host : State.reset.busy = false ∧ encodedMaxSize .base64 4 ≤ 8 ∧ decodedMaxSize .base64 8 ≤ 6 ∧
    encodedMaxSize .base32 1 ≤ 8 ∧ decodedMaxSize .base32 8 ≤ 5 ∧ ([0x54, 0x51] : List Byte) ≠ [] ∧
    ([0x54, 0x51, 0x3D, 0x3D] : List Byte).length % Family.base64.groupSize = 0 := by decide

/-- HostDecodeEndsScrubbed: bytes that are not whole groups, and none, where the host requires padding. -/
theorem witness_requirePad : decodedMaxSize .base64 2 ≤ 1 ∧
    ([0x54, 0x51] : List Byte).length % Family.base64.groupSize ≠ 0 ∧ decodedMaxSize .base64 0 ≤ 0 := by decide

/-- EveryLaneAndCheckIsEvaluated: each clause, the last lanes, entries and counts. -/
theorem witness_units : encodeForm (.enc32 1) = some (.base32, 1) ∧ WellFormed (.enc32 1) ∧
    7 < Family.base32.groupSize ∧ 31 < 2 ^ Family.base32.width ∧ decodeForm .dec64 = some (.base64, false, 4) ∧
    decodeForm (.dec32f 7) = some (.base32, true, 7) ∧ WellFormed (.dec32f 7) ∧ 7 < Family.base32.groupSize ∧
    decodeForm (.dec32f 8) = some (.base32, true, 8) ∧ WellFormed (.dec32f 8) ∧ 8 = Family.base32.groupSize ∧
    2 ∈ legalCounts .base32 := by decide

end Sys2Proof.Machine
end

section
/-! PROOFS. What every command's result keeps: the three clauses of the invariant that speak of the result registers
alone (10_state.md R23, R24). -/

namespace Sys2Proof.Machine

/-- ERR is OK with ILL, COUNT is at most 8, and the lanes at and above COUNT hold 0 (10_state.md R23, R24). -/
structure Result.Sound (r : Result) : Prop where
  illOk : r.ill = true → r.err = .ok
  countLe : r.count.toNat ≤ 8
  lanesBeyond : ∀ i, i < 8 → r.count.toNat ≤ i → lane r.out i = 0

theorem Result.illegal_sound : Result.illegal.Sound :=
  ⟨fun _ => rfl, by simp, fun i _ _ => lane_zero i⟩

theorem Result.failed_sound (e : ErrClass) (cls : BitVec 16) : (Result.failed e cls).Sound :=
  ⟨(fun h => nomatch h), by simp, fun i _ _ => lane_zero i⟩

theorem Result.lanes_sound {f : Nat → Byte} {n : Nat} (hn : n ≤ 8) (hf : ∀ i, n ≤ i → f i = 0) :
    (Result.lanes f n).Sound := by
  have hcount : (Result.lanes f n).count.toNat = n := by
    rw [Result.lanes_count, BitVec.toNat_ofNat]
    omega
  exact ⟨fun _ => rfl, hcount.trans_le hn, fun i hi h => (lane_lanes f n hi).trans (hf i (hcount ▸ h))⟩

theorem Result.ofLegal_sound (legal : Bool) {r : Result} (h : r.Sound) : (Result.ofLegal legal r).Sound := by
  cases legal
  · exact Result.illegal_sound
  · exact h

theorem symLanes_sound (A : Family) (L : Operand) : (symLanes A L).Sound :=
  ⟨fun _ => rfl, Nat.le_refl 8, fun _ hi h => absurd h (Nat.not_le.mpr hi)⟩

theorem idxLanes_sound (A : Family) (L : Operand) : (idxLanes A L).Sound :=
  ⟨(fun h => nomatch h), Nat.le_refl 8, fun _ hi h => absurd h (Nat.not_le.mpr hi)⟩

theorem splitBlock_sound (A : Family) (L : Operand) : (splitBlock A L).Sound :=
  Result.lanes_sound (Family.sizes_le A).1 fun _ => pack_beyond A _

theorem joinBlock_sound (A : Family) (L : Operand) : (joinBlock A L).Sound :=
  Result.lanes_sound ((Family.sizes_le A).2.trans (by decide)) fun _ => unpack_beyond A _

theorem encodeBlock_sound (A : Family) (r : Nat) (L : Operand) : (encodeBlock A r L).Sound :=
  Result.lanes_sound (Family.sizes_le A).1 fun _ hi => if_neg (Nat.not_lt.mpr hi)

theorem decodeSuccess_sound {A : Family} {k : Nat} (hk : k ∈ legalCounts A) (idx : Nat → Byte) (cls : BitVec 16) :
    (decodeSuccess A k idx cls).Sound := by
  obtain ⟨-, -, hbytes, -, -⟩ := legalCounts_bounds A hk
  obtain ⟨-, hraw⟩ := Family.sizes_le A
  have hcount : (decodeSuccess A k idx cls).count.toNat = decodedBytes A k := by
    simp only [decodeSuccess, BitVec.toNat_ofNat]
    omega
  refine ⟨(fun h => nomatch h), by omega, fun i hi h => ?_⟩
  rw [lane_decodeSuccess A k idx cls hi, if_neg (by omega)]

theorem decodeGroup_sound (A : Family) (final : Bool) (m : Nat) (L : Operand) : (decodeGroup A final m L).Sound := by
  obtain ⟨_, e⟩ | ⟨_, _, _, hghost, e⟩ | ⟨_, _, e⟩ := decodeResult_cases A final m fun j => classify A (lane L j)
  all_goals rw [decodeGroup, e]
  · exact Result.failed_sound _ _
  · exact decodeSuccess_sound ((ghostClear_iff ..).mp hghost).1 _ _
  · exact Result.failed_sound _ _

theorem commandResult_sound (i : Instr) (L : Operand) : (commandResult i L).Sound := by
  cases i with
  | clr => exact Result.lanes_sound (Nat.zero_le 8) fun _ _ => rfl
  | sym64 | sym32 => exact symLanes_sound _ L
  | idx64 | idx32 => exact idxLanes_sound _ L
  | split64 | split32 => exact splitBlock_sound _ L
  | join64 | join32 => exact joinBlock_sound _ L
  | enc64 r | enc32 r => exact Result.ofLegal_sound _ (encodeBlock_sound _ _ L)
  | dec64 | dec32 => exact decodeGroup_sound _ _ _ L
  | dec64f m | dec32f m => exact Result.ofLegal_sound _ (decodeGroup_sound _ _ _ L)

theorem wordResult_of_ok {c : Word} {i : Instr} (h : decode c = .ok i) (L : Operand) :
    wordResult c L = commandResult i L := by
  simp [wordResult, h]

theorem wordResult_of_error {c : Word} {e : IllegalWord} (h : decode c = .error e) (L : Operand) :
    wordResult c L = .illegal := by
  simp [wordResult, h]

theorem wordResult_sound (c : Word) (L : Operand) : (wordResult c L).Sound := by
  cases h : decode c with
  | ok i => exact wordResult_of_ok h L ▸ commandResult_sound i L
  | error e => exact wordResult_of_error h L ▸ Result.illegal_sound

end Sys2Proof.Machine
end

section
/-! PROOFS. What one cycle does to the result registers, to OVR and to the other registers, whatever the access: the
facts the statements about the port, the issue and the completion are assembled from. -/

namespace Sys2Proof.Machine

/-! ## The result registers -/

@[simp] theorem State.result_complete (s : State) (r : Result) : (s.complete r).result = r := by
  simp [State.result]

/-- No access of a cycle outside reset writes a result register (10_state.md R31). -/
theorem portAccess_result {a : Option HostAccess} {s t : State} (h : portAccess a s = .next t) :
    t.result = s.result := by
  obtain ⟨_, rfl⟩ | ⟨off, size, _, _, rfl⟩ | ⟨off, size, v, _, _, rfl⟩ := portAccess_next h
  · rfl
  · rfl
  · obtain ⟨_, _, e⟩ | ⟨_, _, e⟩ | ⟨_, e⟩ | ⟨_, e⟩ | ⟨_, _, _, e⟩ := writeReg_cases s off v <;> rw [e] <;> rfl

/-- A completion changes the result registers, BUSY, DONE and CNT alone (10_state.md R30). -/
theorem State.finished_complete (s : State) (r : Result) : s.Finished (s.complete r) :=
  ⟨rfl, rfl, rfl, rfl, rfl, rfl, rfl, rfl, rfl, rfl, rfl⟩

/-! ## The engine at the end of a cycle -/

/-- What the engine makes of the state the access leaves, in a cycle that begins with BUSY as given (10_state.md R30,
70_reset_and_hazards.md R202): see `clockCycle_eq_engineEnd`. -/
def State.engineEnd (u : State) (busy : Bool) : State :=
  if busy = true then (if u.cnt ≤ 1 then u.complete (wordResult u.lcmd u.lin) else u.countDown) else u

/-- A cycle outside reset is the access and then the engine. -/
theorem clockCycle_eq_engineEnd {c : PortCycle} {s u : State} (hr : c.reset = false)
    (hu : portAccess c.access s = .next u) : clockCycle c s = .next (u.engineEnd s.busy) := by
  cases hb : s.busy with
  | false => exact clockCycle_idle hr hb hu
  | true => exact clockCycle_busy hr hb hu

theorem step_cons (s : State) (c : PortCycle) (rest : List PortCycle) :
    step { s with port := c :: rest } = clockCycle c { s with port := rest } := rfl

/-- A cycle with a defined write outside reset. -/
theorem clockCycle_write {off : Nat} (hlt : off < 64) (hal : off % 4 = 0) (s : State) (v : Word) :
    clockCycle ⟨false, some (.write off 4 v)⟩ s = .next ((s.writeReg off v).engineEnd s.busy) :=
  clockCycle_eq_engineEnd rfl (definedAccess_of_defined ⟨hlt, rfl, hal⟩ _)

/-- A cycle without an access outside reset. -/
theorem clockCycle_noAccess (s : State) : clockCycle ⟨false, none⟩ s = .next (s.engineEnd s.busy) :=
  clockCycle_eq_engineEnd rfl rfl

theorem State.engineEnd_setInLo (u : State) (busy : Bool) (v : Word) :
    State.engineEnd { u with inLo := v } busy = { u.engineEnd busy with inLo := v } := by
  simp only [State.engineEnd]
  split_ifs <;> rfl

theorem State.engineEnd_setInHi (u : State) (busy : Bool) (v : Word) :
    State.engineEnd { u with inHi := v } busy = { u.engineEnd busy with inHi := v } := by
  simp only [State.engineEnd]
  split_ifs <;> rfl

theorem State.engineEnd_setOvr (u : State) (busy v : Bool) :
    State.engineEnd { u with ovr := v } busy = { u.engineEnd busy with ovr := v } := by
  simp only [State.engineEnd]
  split_ifs <;> rfl

@[simp] theorem State.engineEnd_ovr (u : State) (busy : Bool) : (u.engineEnd busy).ovr = u.ovr := by
  unfold State.engineEnd
  split_ifs <;> rfl

/-- A step that goes on is a cycle of reset, or an access and then the engine. -/
theorem step_next {s t : State} (h : step s = .next t) :
    (s.nextCycle.reset = true ∧ resetCycle s.nextCycle.access s.taken = .next t) ∨
      (s.nextCycle.reset = false ∧ ∃ u, portAccess s.nextCycle.access s.taken = .next u ∧ t = u.engineEnd s.busy) := by
  rw [step_eq] at h
  obtain ⟨hr, h⟩ | ⟨hr, hb, h⟩ | ⟨hr, hb, u, hu, rfl⟩ := clockCycle_next h
  · exact .inl ⟨hr, h⟩
  · rw [State.taken_busy] at hb
    exact .inr ⟨hr, t, h, by simp [State.engineEnd, hb]⟩
  · rw [State.taken_busy] at hb
    exact .inr ⟨hr, u, hu, by simp [State.engineEnd, hb]⟩

/-! ## OVR -/

/-- OVR after an access outside reset: set by a dropped CMD write, cleared by an accepted one, else kept (10_state.md
R26 to R28). -/
theorem portAccess_ovr {a : Option HostAccess} {s u : State} (h : portAccess a s = .next u) :
    u.ovr = true ↔ ((∃ v, a = some (.write 0x00 4 v)) ∧ s.busy = true) ∨
      (s.ovr = true ∧ ¬((∃ v, a = some (.write 0x00 4 v)) ∧ s.busy = false)) := by
  obtain ⟨rfl, rfl⟩ | ⟨off, size, rfl, _, rfl⟩ | ⟨off, size, v, rfl, hd, rfl⟩ := portAccess_next h
  · simp
  · simp
  · obtain ⟨_, rfl, _⟩ := hd
    obtain ⟨h0, hb, e⟩ | ⟨h0, hb, e⟩ | ⟨h8, e⟩ | ⟨h12, e⟩ | ⟨h0, _, _, e⟩ := writeReg_cases s off v <;> rw [e]
    · simp [h0, hb]
    · simp [h0, hb]
    · simp [h8]
    · simp [h12]
    · simp [h0]

end Sys2Proof.Machine
end

section
/-! PROOFS. Every register update of a cycle keeps the invariant. -/

namespace Sys2Proof.Machine

theorem State.reset_inv : State.reset.Inv where
  exclusive := by decide
  counting := by decide
  counted := fun _ => rfl
  latched := rfl
  results := by decide
  fresh := fun _ _ => ⟨rfl, rfl, rfl, rfl⟩
  illOk := by decide
  countLe := by decide
  lanesBeyond := by decide

/-- The invariant does not speak of IN, of the port or of the answers. -/
theorem State.Inv.withHostSide {s : State} (h : s.Inv) (inLo inHi : Word) (port : List PortCycle)
    (answers : List Word) : State.Inv { s with inLo := inLo, inHi := inHi, port := port, answers := answers } :=
  ⟨h.exclusive, h.counting, h.counted, h.latched, h.results, h.fresh, h.illOk, h.countLe, h.lanesBeyond⟩

/-- A dropped issue happens with BUSY 1, where the invariant does not speak of OVR. -/
theorem State.Inv.dropIssue {s : State} (h : s.Inv) (hb : s.busy = true) : s.dropIssue.Inv where
  exclusive := h.exclusive
  counting := h.counting
  counted := h.counted
  latched := h.latched
  results := h.results
  fresh := fun hf => by simp [hb] at hf
  illOk := h.illOk
  countLe := h.countLe
  lanesBeyond := h.lanesBeyond

theorem State.Inv.issue {s : State} (h : s.Inv) (v : Word) : (s.issue v).Inv where
  exclusive := by simp
  counting := fun _ => ⟨Nat.succ_pos _, Nat.le_refl _⟩
  counted := by simp
  latched := rfl
  results := by simp
  fresh := by simp
  illOk := h.illOk
  countLe := h.countLe
  lanesBeyond := h.lanesBeyond

theorem State.Inv.countDown {s : State} (h : s.Inv) (hb : s.busy = true) (hc : ¬s.cnt ≤ 1) : s.countDown.Inv where
  exclusive := h.exclusive
  counting := fun _ => by
    obtain ⟨-, hle⟩ := h.counting hb
    rw [State.countDown_cnt]
    omega
  counted := fun hf => by simp [hb] at hf
  latched := h.latched
  results := h.results
  fresh := fun hf => by simp [hb] at hf
  illOk := h.illOk
  countLe := h.countLe
  lanesBeyond := h.lanesBeyond

/-- A completion gives the invariant whatever the results were before: all it takes over is LCMD = CMD. -/
theorem State.complete_inv {s : State} (h : s.lcmd = s.cmd) : (s.complete (wordResult s.lcmd s.lin)).Inv := by
  have hres : (s.complete (wordResult s.lcmd s.lin)).result = wordResult s.lcmd s.lin := s.result_complete _
  have hsound : (s.complete (wordResult s.lcmd s.lin)).result.Sound := by
    rw [hres]
    exact wordResult_sound s.lcmd s.lin
  exact {
    exclusive := by simp
    counting := by simp
    counted := fun _ => rfl
    latched := h
    results := fun _ => by rw [State.complete_cmd, State.complete_lin, hres, h]
    fresh := by simp
    illOk := hsound.illOk
    countLe := hsound.countLe
    lanesBeyond := hsound.lanesBeyond }

theorem State.Inv.engineEnd {u : State} (h : u.Inv) {busy : Bool} (hb : busy = true → u.busy = true) :
    (u.engineEnd busy).Inv := by
  unfold State.engineEnd
  split_ifs with hbusy hc
  · exact State.complete_inv h.latched
  · exact h.countDown (hb hbusy) hc
  · exact h

theorem State.Inv.writeReg {s : State} (h : s.Inv) (off : Nat) (v : Word) : (s.writeReg off v).Inv := by
  obtain ⟨_, hb, e⟩ | ⟨_, _, e⟩ | ⟨_, e⟩ | ⟨_, e⟩ | ⟨_, _, _, e⟩ := writeReg_cases s off v <;> rw [e]
  · exact h.dropIssue hb
  · exact h.issue v
  · exact h.withHostSide _ _ _ _
  · exact h.withHostSide _ _ _ _
  · exact h

theorem portAccess_inv {a : Option HostAccess} {s u : State} (h : s.Inv) (hu : portAccess a s = .next u) : u.Inv := by
  obtain ⟨_, rfl⟩ | ⟨off, size, _, _, rfl⟩ | ⟨off, size, v, _, _, rfl⟩ := portAccess_next hu
  · exact h
  · exact h.withHostSide _ _ _ _
  · exact h.writeReg off v

theorem resetCycle_inv {a : Option HostAccess} {s t : State} (h : resetCycle a s = .next t) : t.Inv := by
  obtain rfl | ⟨_, _, _, rfl⟩ := resetCycle_next h <;> exact State.reset_inv.withHostSide _ _ _ _

/-- Settles O40: a cycle of reset gives the invariant, an access keeps it, and so does the engine after it. -/
theorem stepKeepsInvariant : Obligations.StepKeepsInvariant := by
  intro s t hs h
  obtain ⟨_, h⟩ | ⟨_, u, hu, rfl⟩ := step_next h
  · exact resetCycle_inv h
  · have hinv : u.Inv := portAccess_inv (hs.withHostSide _ _ _ _) hu
    refine hinv.engineEnd fun hb => ?_
    obtain ⟨-, hbusy, -⟩ := portAccess_busy hu hb
    exact hbusy

/-- Settles O39: every clause is about literals there. -/
theorem resetMeetsInvariant : Obligations.ResetMeetsInvariant := State.reset_inv

end Sys2Proof.Machine
end

section
/-! PROOFS. The statements about writes of the port, issue, drop and OVR (10_state.md R26 to R29). -/

namespace Sys2Proof.Machine

/-- Settles O26: the write acts before the engine, and the engine neither reads nor writes IN. -/
theorem operandWritesAndIgnoredWrites : Obligations.OperandWritesAndIgnoredWrites := by
  intro s rest off v hlt hal h0
  refine ⟨_, by rw [step_cons, clockCycle_noAccess], ?_⟩
  rw [step_cons, clockCycle_write hlt hal]
  obtain ⟨h, _⟩ | ⟨h, _⟩ | ⟨h8, e⟩ | ⟨h12, e⟩ | ⟨_, h8, h12, e⟩ := writeReg_cases { s with port := rest } off v
  · exact absurd h h0
  · exact absurd h h0
  · rw [e, State.engineEnd_setInLo, if_pos h8]
  · rw [e, State.engineEnd_setInHi, if_neg (by omega), if_pos h12]
  · rw [e, if_neg h8, if_neg h12]

/-- Settles O27: with BUSY 0 the write of CMD is `State.issue`, and the engine does not work in that cycle. -/
theorem acceptedIssueLatches : Obligations.AcceptedIssueLatches := by
  intro s rest v hport hb
  have hnext : s.nextCycle = ⟨false, some (.write Reg.cmd.offset 4 v)⟩ := by simp [State.nextCycle, hport, Reg.offset]
  rw [step_eq, hnext, clockCycle_write_idle (by exact hb)]
  simp [State.writeReg, Reg.offset, hb, State.issue, State.taken, State.operand, hport]

/-- Settles O28: the drop acts before the engine, and the engine neither reads nor writes OVR. -/
theorem droppedIssueSetsOnlyOvr : Obligations.DroppedIssueSetsOnlyOvr := by
  intro s rest v hb
  refine ⟨_, by rw [step_cons, clockCycle_noAccess], ?_⟩
  have hdrop : State.writeReg { s with port := rest } 0x00 v = State.dropIssue { s with port := rest } := by
    simp [State.writeReg, hb]
  rw [step_cons, clockCycle_write (by decide) rfl, hdrop, State.dropIssue, State.engineEnd_setOvr]

/-- Settles O29: reset clears OVR, an access changes it as R26 says, and the engine leaves it alone. -/
theorem ovrRecordsADrop : Obligations.OvrRecordsADrop := by
  rintro s t c rfl h
  obtain ⟨hr, h⟩ | ⟨hr, u, hu, rfl⟩ := step_next h
  · have hovr : t.ovr = false := by obtain rfl | ⟨_, _, _, rfl⟩ := resetCycle_next h <;> rfl
    exact iff_of_false (by simp [hovr]) fun ⟨hf, _⟩ => Bool.noConfusion (hr.symm.trans hf)
  · have hr : (s.port.headD idleCycle).reset = false := hr
    rw [State.engineEnd_ovr, portAccess_ovr hu]
    exact (and_iff_right hr).symm

end Sys2Proof.Machine
end

section
/-! PROOFS. The statements about completion: what runs, what it gives, and that nothing else changes the results
(10_state.md R30, R31, R35; 60_exceptions.md R180). -/

namespace Sys2Proof.Machine

theorem State.taken_of_port_nil (s : State) (h : s.port = []) : s.taken = s := by
  cases s
  simp_all [State.taken]

/-- Settles O30: the access leaves LCMD and LIN of a command in flight alone, so what completes is the decoded command
on the latched operand. -/
theorem stepRunsTheDecodedCommand : Obligations.StepRunsTheDecodedCommand := by
  intro s i hi hb hc
  have hexec : ∀ u : State, u.lin = s.lin → .next (u.complete (wordResult s.lcmd s.lin)) = exec i u := fun u hlin => by
    rw [exec_eq_complete, wordResult_of_ok hi, hlin]
  refine ⟨fun hport => ?_, fun c rest u hport hr hu => ?_⟩
  · have hnext : s.nextCycle = idleCycle := by rw [State.nextCycle, hport]; rfl
    have htaken : s.taken = s := s.taken_of_port_nil hport
    rw [step_completes (u := s) hb hc (by rw [hnext]; rfl) (by rw [hnext, htaken]; rfl), hexec s rfl]
  · have hnext : s.nextCycle = c := by rw [State.nextCycle, hport]; rfl
    have htaken : s.taken = { s with port := rest } := by rw [State.taken, hport]; rfl
    rw [← hnext, ← htaken] at hu
    obtain ⟨-, -, -, -, hlin, -⟩ := portAccess_busy hu hb
    rw [step_completes hb hc (hnext ▸ hr) hu, hexec u hlin]

/-- Settles O31: the last cycle completes the word's result, and that of an illegal word is `Result.illegal`. -/
theorem illegalWordCompletesWithIll : Obligations.IllegalWordCompletesWithIll := by
  rintro s u e c he hb hc rfl hr hu
  refine ⟨_, step_completes hb hc hr hu, ?_⟩
  rw [wordResult_of_error he]
  exact ⟨u.out_complete _, ⟨rfl, rfl, rfl, rfl⟩, u.finished_complete _⟩

/-- Outside reset, the last cycle of a command completes it with its word's result on its operand. -/
theorem step_completes_result {s : State} (hb : s.busy = true) (hc : s.cnt ≤ 1) (hr : s.nextCycle.reset = false)
    (hd : s.nextCycle.Defined) : ∃ t, step s = .next t ∧ t.result = wordResult s.lcmd s.lin := by
  obtain ⟨u, hu⟩ := portAccess_defined hd s.taken
  exact ⟨_, step_completes hb hc hr hu, u.result_complete _⟩

/-- Settles O32: both cycles complete with the same `wordResult`. -/
theorem resultsDependOnLatchedWordAndOperand : Obligations.ResultsDependOnLatchedWordAndOperand := by
  rintro s t c d hlcmd hlin hbs hbt hcs hct rfl rfl hrs hrt hds hdt
  obtain ⟨s', hs, es⟩ := step_completes_result hbs hcs hrs hds
  obtain ⟨t', ht, et⟩ := step_completes_result hbt hct hrt hdt
  exact ⟨s', t', hs, ht, by rw [es, et, hlcmd, hlin]⟩

/-- Settles O33: an access keeps the results, and so does the engine where it does not complete. -/
theorem resultsChangeOnlyAtCompletionOrReset : Obligations.ResultsChangeOnlyAtCompletionOrReset := by
  intro s t h hne
  obtain ⟨hr, _⟩ | ⟨_, u, hu, rfl⟩ := step_next h
  · exact .inl hr
  · have hkeep : u.result = s.result := (portAccess_result hu).trans s.taken_result
    revert hne
    unfold State.engineEnd
    split_ifs with hb hc
    · obtain ⟨-, -, -, -, -, hcnt, -⟩ := portAccess_busy hu hb
      exact fun _ => .inr ⟨hb, hcnt ▸ hc, rfl, rfl⟩
    · exact fun hne => absurd hkeep hne
    · exact fun hne => absurd hkeep hne

end Sys2Proof.Machine
end

section
/-! PROOFS. The layout of STATUS and the reset values (10_state.md R19, R23, R25, R34). -/

namespace Sys2Proof.Machine

theorem statusWord_done (s : State) : s.statusWord.getLsbD 1 = s.done := by
  simp only [State.statusWord, BitVec.getLsbD_append]
  simp

theorem statusWord_ill (s : State) : s.statusWord.getLsbD 2 = s.ill := by
  simp only [State.statusWord, BitVec.getLsbD_append]
  simp

theorem statusWord_ovr (s : State) : s.statusWord.getLsbD 9 = s.ovr := by
  simp only [State.statusWord, BitVec.getLsbD_append]
  simp

/-- From bit 10 on STATUS is CLASS over the six reserved bits. -/
theorem statusWord_extract_above {start : Nat} (h : 10 ≤ start) (s : State) (len : Nat) :
    s.statusWord.extractLsb' start len = (s.cls ++ 0#6).extractLsb' (start - 10) len := by
  unfold State.statusWord
  repeat rw [BitVec.extractLsb'_append_eq_of_le (by omega)]
  simp only [Nat.sub_sub]

theorem statusWord_reserved (s : State) : s.statusWord.extractLsb' 10 6 = 0 := by
  rw [statusWord_extract_above (Nat.le_refl 10), BitVec.extractLsb'_append_eq_of_add_le (by decide)]
  rfl

theorem statusWord_class {start : Nat} (h : 16 ≤ start) (s : State) (len : Nat) :
    s.statusWord.extractLsb' start len = s.cls.extractLsb' (start - 16) len := by
  rw [statusWord_extract_above (by omega), BitVec.extractLsb'_append_eq_of_le (by omega), Nat.sub_sub]

/-- Settles O24, field by field. -/
theorem statusWordLayout : Obligations.StatusWordLayout := by
  have hcls (s : State) : s.statusWord.extractLsb' 16 16 = s.cls := by
    rw [statusWord_class (Nat.le_refl 16), BitVec.extractLsb'_eq_self]
  have hlane (s : State) (i : Nat) : s.statusWord.extractLsb' (16 + 2 * i) 2 = s.cls.extractLsb' (2 * i) 2 := by
    rw [statusWord_class (Nat.le_add_right ..), Nat.add_sub_cancel_left]
  exact ⟨fun s => ⟨statusWord_busy s, statusWord_done s, statusWord_ill s, statusWord_err s, statusWord_count s,
      statusWord_ovr s, statusWord_reserved s, hcls s, fun i _ => hlane s i⟩,
    ⟨rfl, rfl, rfl⟩, ⟨rfl, rfl, rfl, rfl⟩, fun f _ hi => packClasses_lane f hi⟩

/-- Settles O35: a closed fact about `State.reset`. -/
theorem resetValues : Obligations.ResetValues := by
  unfold Obligations.ResetValues
  decide

end Sys2Proof.Machine
end

section
/-! PROOFS. The statements about the window: its offsets, what a read does, and the accesses that stop the model
(20_memory.md R43 to R47). -/

namespace Sys2Proof.Machine

/-! ## Reads -/

/-- The address map of reads (20_memory.md R44). -/
theorem State.readReg_eq (s : State) (off : Nat) :
    s.readReg off = if off = 0x00 then s.cmd else if off = 0x04 then s.statusWord else if off = 0x08 then s.inLo
      else if off = 0x0C then s.inHi else if off = 0x10 then s.outLo else if off = 0x14 then s.outHi else 0 := by
  unfold State.readReg
  split
  case h_7 h0 h4 h8 hC h10 h14 =>
    rw [if_neg h0, if_neg h4, if_neg h8, if_neg hC, if_neg h10, if_neg h14]
  all_goals rfl

/-- A cycle with a defined read outside reset. -/
theorem clockCycle_read {off : Nat} (hlt : off < 64) (hal : off % 4 = 0) (s : State) :
    clockCycle ⟨false, some (.read off 4)⟩ s = .next ((s.answer (s.readReg off)).engineEnd s.busy) :=
  clockCycle_eq_engineEnd rfl (definedAccess_of_defined ⟨hlt, rfl, hal⟩ _)

theorem State.engineEnd_setAnswers (u : State) (busy : Bool) (l : List Word) :
    State.engineEnd { u with answers := l } busy = { u.engineEnd busy with answers := l } := by
  simp only [State.engineEnd]
  split_ifs <;> rfl

/-- Settles O25: the read adds the register's value to the answers alone, which the engine neither reads nor writes. -/
theorem readsAnswerTheMapAndChangeNothing : Obligations.ReadsAnswerTheMapAndChangeNothing := by
  intro s rest off hlt hal
  refine ⟨_, by rw [step_cons, clockCycle_noAccess], ?_⟩
  rw [step_cons, clockCycle_read hlt hal, State.answer, State.engineEnd_setAnswers, State.readReg_eq]
  rfl

/-! ## The window -/

/-- Settles O23: BASE is 64 times a number, and the window is the 64 addresses from BASE on. -/
theorem windowOffsetsCountFromBase : Obligations.WindowOffsetsCountFromBase := by
  refine ⟨Nat.mul_mod_right 64 _, fun addr off => ?_⟩
  rw [windowOffset, Option.ite_none_right_eq_some, Option.some.injEq, Config.WINDOW]
  omega

/-! ## Accesses that stop the model -/

theorem definedAccess_outside {off : Nat} (h : 64 ≤ off) (size : Nat) (s : State) :
    definedAccess off size s = .fault (.outsideWindow off) :=
  if_pos h

theorem definedAccess_narrow {off size : Nat} (hlt : off < 64) (h : size ≠ 4 ∨ off % 4 ≠ 0) (s : State) :
    definedAccess off size s = .refused (.narrowAccess off size) := by
  rw [definedAccess, Config.WINDOW, if_neg (Nat.not_le.mpr hlt), if_neg (by omega)]

/-- A cycle whose access stops stops with it, in and out of reset. -/
theorem clockCycle_stops {off size : Nat} {a : HostAccess} {o : Host.Outcome State Fault Refusal}
    (ha : a = .read off size ∨ ∃ v, a = .write off size v) (ho : ∀ u, definedAccess off size u = o)
    (hstop : ∀ u, o ≠ .next u) (rst : Bool) (s : State) : clockCycle ⟨rst, some a⟩ s = o := by
  have hreset : resetCycle (some a) s = o := by obtain rfl | ⟨v, rfl⟩ := ha <;> exact ho _
  have hport : portAccess (some a) s = o := by obtain rfl | ⟨v, rfl⟩ := ha <;> exact ho _
  cases rst with
  | true => exact hreset
  | false =>
    cases o with
    | next u => exact absurd rfl (hstop u)
    | fault f => simp [clockCycle, hport]
    | refused r => simp [clockCycle, hport]

/-- Settles O38: reads and writes, in and out of reset, all go through `definedAccess`. -/
theorem undefinedAccessesStop : Obligations.UndefinedAccessesStop := by
  intro s rest rst a off size ha
  rw [step_cons]
  exact ⟨fun h => clockCycle_stops ha (definedAccess_outside h size) (fun _ => nofun) rst _,
    fun hlt h => clockCycle_stops ha (definedAccess_narrow hlt h) (fun _ => nofun) rst _⟩

end Sys2Proof.Machine
end

section
/-! PROOFS. The decoder against the encoder and against the conditions of 30_encoding.md R60: which fields it takes, as
which command, and which it rejects, for each shape of a row of the table of legal words. -/

namespace Sys2Proof

theorem functionCode_cases (fn : BitVec 3) :
    fn = 0#3 ∨ fn = 1#3 ∨ fn = 2#3 ∨ fn = 3#3 ∨ fn = 4#3 ∨ fn = 5#3 ∨ fn = 6#3 ∨ fn = 7#3 := by
  revert fn
  decide

theorem ok_else_error_eq_ok {p : Prop} [Decidable p] {x i : Instr} {r : IllegalWord} :
    (if p then .ok x else .error r) = Except.ok i ↔ p ∧ x = i := by
  by_cases hp : p <;> simp [hp]

theorem ok_else_error_rejects {p : Prop} [Decidable p] {x : Instr} {r : IllegalWord} :
    (∃ e, (if p then .ok x else .error r) = Except.error e) ↔ ¬p := by
  by_cases hp : p <;> simp [hp]

/-! ## Accepted fields -/

/-- FN 1 to 4: the two commands of a function code, one a family, are accepted in their own words only. -/
theorem encode_of_decodePlain {fn : BitVec 3} {a f : BitVec 1} {n : BitVec 4} {x y i : Instr}
    (hx : WellFormed x ∧ encode x = commandWord fn 0 0 0) (hy : WellFormed y ∧ encode y = commandWord fn 1 0 0)
    (h : decodePlain n f (if a = 0#1 then x else y) = .ok i) : WellFormed i ∧ encode i = commandWord fn a n f := by
  obtain ⟨rfl, rfl, rfl⟩ := decodePlain_ok h
  obtain rfl | rfl := BitVec.eq_zero_or_eq_one a
  · exact hx
  · exact hy

/-- FN 5: the count of an accepted encode command is in the range of its family. -/
theorem encode_of_decodeFields_enc {a f : BitVec 1} {n : BitVec 4} {i : Instr} (h : decodeFields 5#3 a n f = .ok i) :
    WellFormed i ∧ encode i = commandWord 5#3 a n f := by
  obtain rfl | rfl := BitVec.eq_zero_or_eq_one a <;>
  · obtain ⟨rfl, hpos, hle, rfl⟩ := decodeEncode_ok h
    exact ⟨decide_eq_true ⟨hpos, hle⟩, rfl⟩

/-- FN 6, one family: `whole` is accepted in its own word only, `final` where it is well-formed. -/
theorem encode_of_decodeDecode {g : BitVec 4} {a f : BitVec 1} {n : BitVec 4} {whole final i : Instr}
    (hwhole : WellFormed whole ∧ encode whole = commandWord 6#3 a g 0)
    (hfinal : 1 ≤ n.toNat ∧ n.toNat ≤ g.toNat → WellFormed final ∧ encode final = commandWord 6#3 a n 1)
    (h : decodeDecode g.toNat n f whole final = .ok i) : WellFormed i ∧ encode i = commandWord 6#3 a n f := by
  obtain ⟨rfl, hn, rfl⟩ | ⟨rfl, hpos, hle, rfl⟩ := decodeDecode_ok h
  · rwa [BitVec.eq_of_toNat_eq hn]
  · exact hfinal ⟨hpos, hle⟩

/-- Accepted fields are those of a well-formed command's word. -/
theorem encode_of_decodeFields {fn : BitVec 3} {a f : BitVec 1} {n : BitVec 4} {i : Instr}
    (h : decodeFields fn a n f = .ok i) : WellFormed i ∧ encode i = commandWord fn a n f := by
  obtain rfl | rfl | rfl | rfl | rfl | rfl | rfl | rfl := functionCode_cases fn
  · obtain ⟨⟨rfl, rfl, rfl⟩, rfl⟩ := ok_else_error_eq_ok.mp h
    exact ⟨rfl, rfl⟩
  · exact encode_of_decodePlain (x := .sym64) (y := .sym32) ⟨rfl, rfl⟩ ⟨rfl, rfl⟩ h
  · exact encode_of_decodePlain (x := .idx64) (y := .idx32) ⟨rfl, rfl⟩ ⟨rfl, rfl⟩ h
  · exact encode_of_decodePlain (x := .split64) (y := .split32) ⟨rfl, rfl⟩ ⟨rfl, rfl⟩ h
  · exact encode_of_decodePlain (x := .join64) (y := .join32) ⟨rfl, rfl⟩ ⟨rfl, rfl⟩ h
  · exact encode_of_decodeFields_enc h
  · obtain rfl | rfl := BitVec.eq_zero_or_eq_one a
    · exact encode_of_decodeDecode (g := 4) (whole := .dec64) (final := .dec64f n)
        ⟨rfl, rfl⟩ (⟨decide_eq_true ·, rfl⟩) h
    · exact encode_of_decodeDecode (g := 8) (whole := .dec32) (final := .dec32f n)
        ⟨rfl, rfl⟩ (⟨decide_eq_true ·, rfl⟩) h
  · exact nomatch h

/-- A word that decodes is its command's own word. -/
theorem encode_of_decode {w : Word} {i : Instr} (h : decode w = .ok i) : WellFormed i ∧ encode i = w := by
  by_cases hrsv : cmdRSV w = 0#23
  · rw [decode_of_fields hrsv] at h
    rw [← commandWord_fields hrsv]
    exact encode_of_decodeFields h
  · rw [decode_of_reserved hrsv] at h
    exact nomatch h

/-- The word of a well-formed command decodes to it. -/
theorem decode_encode {i : Instr} (h : WellFormed i) : decode (encode i) = .ok i := by
  cases i with
  | clr | sym64 | sym32 | idx64 | idx32 | split64 | split32 | join64 | join32 | dec64 | dec32 =>
    exact decode_commandWord ..
  | enc64 n | enc32 n => exact (decode_commandWord ..).trans (if_pos ⟨rfl, of_decide_eq_true h⟩)
  | dec64f n | dec32f n => exact (decode_commandWord ..).trans (if_pos (of_decide_eq_true h))

/-! ## Rejected fields -/

theorem decodePlain_rejects {n : BitVec 4} {f : BitVec 1} {i : Instr} :
    (∃ e, decodePlain n f i = .error e) ↔ (n.toNat, f.toNat) ≠ (0, 0) := by
  rw [decodePlain, ok_else_error_rejects]
  simp [BitVec.toNat_eq]

theorem decodeEncode_rejects {rb : Nat} {n : BitVec 4} {f : BitVec 1} {i : Instr} :
    (∃ e, decodeEncode rb n f i = .error e) ↔ f.toNat = 1 ∨ n.toNat = 0 ∨ n.toNat > rb := by
  rw [decodeEncode, ok_else_error_rejects, BitVec.toNat_eq, BitVec.toNat_ofNat]
  omega

theorem decodeDecode_rejects {g : Nat} {n : BitVec 4} {f : BitVec 1} {whole final : Instr} :
    (∃ e, decodeDecode g n f whole final = .error e) ↔
      f.toNat = 0 ∧ n.toNat ≠ g ∨ f.toNat = 1 ∧ (n.toNat = 0 ∨ n.toNat > g) := by
  obtain rfl | rfl := BitVec.eq_zero_or_eq_one f
  · simpa [decodeDecode] using ok_else_error_rejects
  · have hrange : ¬(1 ≤ n.toNat ∧ n.toNat ≤ g) ↔ n.toNat = 0 ∨ n.toNat > g := by omega
    simpa [decodeDecode, hrange] using ok_else_error_rejects (p := 1 ≤ n.toNat ∧ n.toNat ≤ g)

theorem decodeFields_clr_rejects {a f : BitVec 1} {n : BitVec 4} :
    (∃ e, decodeFields 0#3 a n f = .error e) ↔ (a.toNat, n.toNat, f.toNat) ≠ (0, 0, 0) := by
  refine (ok_else_error_rejects (p := a = 0#1 ∧ n = 0#4 ∧ f = 0#1)).trans ?_
  simp [BitVec.toNat_eq]

theorem decodeFields_plain_rejects {fn : BitVec 3} {a f : BitVec 1} {n : BitVec 4}
    (h : fn = 1#3 ∨ fn = 2#3 ∨ fn = 3#3 ∨ fn = 4#3) :
    (∃ e, decodeFields fn a n f = .error e) ↔ (n.toNat, f.toNat) ≠ (0, 0) := by
  obtain rfl | rfl | rfl | rfl := h <;> exact decodePlain_rejects

theorem decodeFields_enc_rejects {a f : BitVec 1} {n : BitVec 4} :
    (∃ e, decodeFields 5#3 a n f = .error e) ↔
      f.toNat = 1 ∨ n.toNat = 0 ∨ n.toNat > if a.toNat = 0 then 3 else 5 := by
  obtain rfl | rfl := BitVec.eq_zero_or_eq_one a
  · exact decodeEncode_rejects
  · exact decodeEncode_rejects

theorem decodeFields_dec_rejects {a f : BitVec 1} {n : BitVec 4} :
    (∃ e, decodeFields 6#3 a n f = .error e) ↔
      f.toNat = 0 ∧ n.toNat ≠ (if a.toNat = 0 then 4 else 8) ∨
        f.toNat = 1 ∧ (n.toNat = 0 ∨ n.toNat > if a.toNat = 0 then 4 else 8) := by
  obtain rfl | rfl := BitVec.eq_zero_or_eq_one a
  · exact decodeDecode_rejects
  · exact decodeDecode_rejects

end Sys2Proof
end

section
/-! PROOFS. The statements about the command word (30_encoding.md R56, R59, R60). -/

namespace Sys2Proof.Machine

/-- Settles O2: the two directions are `encode_of_decode` and `decode_encode`. -/
theorem decodeIffEncodedWellFormed : Obligations.DecodeIffEncodedWellFormed := by
  intro w i
  refine ⟨encode_of_decode, ?_⟩
  rintro ⟨hwf, rfl⟩
  exact decode_encode hwf

/-- The rows of the table are the well-formed commands, each with its word. -/
theorem mem_legalWords_iff {w : Word} {i : Instr} : (w, i) ∈ legalWords ↔ WellFormed i ∧ encode i = w := by
  constructor
  · have hrows : ∀ row ∈ legalWords, WellFormed row.2 ∧ encode row.2 = row.1 := by decide
    exact hrows (w, i)
  · rintro ⟨hwf, rfl⟩
    cases i with
    | clr | sym64 | sym32 | idx64 | idx32 | split64 | split32 | join64 | join32 | dec64 | dec32 => decide
    | enc64 n | enc32 n | dec64f n | dec32f n =>
      revert n
      decide

/-- Settles O1: by O2 the words that decode are the rows of the table. -/
theorem legalWordsAreTheTable : Obligations.LegalWordsAreTheTable := by
  have decode_iff (w : Word) (i : Instr) : decode w = .ok i ↔ (w, i) ∈ legalWords :=
    (decodeIffEncodedWellFormed w i).trans mem_legalWords_iff.symm
  refine ⟨fun w i => (decode_iff w i).mpr, fun w hout => ?_, rfl⟩
  cases h : decode w with
  | error e => exact ⟨e, rfl⟩
  | ok i => exact absurd ((decode_iff w i).mp h) (hout i)

/-- Settles O3: reserved bits, then one condition a function code. -/
theorem illegalExactlyUnderListedConditions : Obligations.IllegalExactlyUnderListedConditions := by
  intro c
  by_cases hrsv : cmdRSV c = 0#23
  · rw [decode_of_fields hrsv, hrsv]
    obtain hfn | hfn | hfn | hfn | hfn | hfn | hfn | hfn := functionCode_cases (cmdFN c) <;> rw [hfn]
    · simp [decodeFields_clr_rejects]
    · simp [decodeFields_plain_rejects]
    · simp [decodeFields_plain_rejects]
    · simp [decodeFields_plain_rejects]
    · simp [decodeFields_plain_rejects]
    · simp [decodeFields_enc_rejects]
    · simp [decodeFields_dec_rejects]
    · simp [decodeFields]
  · have hne : (cmdRSV c).toNat ≠ 0 := fun h => hrsv (BitVec.eq_of_toNat_eq h)
    simp [decode_of_reserved hrsv, hne]

/-- Settles O4: the words are those of seven well-formed commands. -/
theorem sampleWordsDecode : Obligations.SampleWordsDecode :=
  ⟨decode_encode (i := .clr) rfl, decode_encode (i := .sym32) rfl, decode_encode (i := .idx64) rfl,
    decode_encode (i := .split32) rfl, decode_encode (i := .join64) rfl, decode_encode (i := .enc64 3) rfl,
    decode_encode (i := .dec32f 7) rfl⟩

end Sys2Proof.Machine
end

section
/-! PROOFS. The statements about the two alphabets: their closed forms, that their lookups are inverse, and that the
range-selection structure computes them (40_lookup.md R100 to R105). -/

namespace Sys2Proof.Machine

/-- Settles O5: a finite fact about the entries of each table. -/
theorem alphabetsInClosedForm : Obligations.AlphabetsInClosedForm :=
  ⟨by decide, by decide⟩

/-- An index of the family is read in full. -/
theorem lowIndex_ofNat {A : Family} {n : Nat} (h : n < 2 ^ A.width) : lowIndex A (BitVec.ofNat 8 n) = BitVec.ofNat 8 n := by
  have hW : 2 ^ A.width ≤ 2 ^ 8 := by cases A <;> decide
  rw [lowIndex, BitVec.toNat_ofNat, Nat.mod_eq_of_lt (h.trans_le hW), Nat.mod_eq_of_lt h]

/-- Settles O6, from the laws of the two lookups. -/
theorem alphabetsAreBijections : Obligations.AlphabetsAreBijections := fun A =>
  ⟨fun n hn => by rw [classify_symbol, lowIndex_ofNat hn],
    fun b hb => ⟨symbol_classify A b hb, classify_index_lt A b⟩,
    classify_eq_pad A⟩

theorem symRange64_eq : ∀ i : BitVec 6, symRange64 (i.setWidth 8) = sym64 i := by decide
theorem symRange32_eq : ∀ i : BitVec 5, symRange32 (i.setWidth 8) = sym32 i := by decide

set_option maxRecDepth 4000 in
theorem classifyRange64_eq : ∀ b, classifyRange64 b = classify .base64 b := by decide

set_option maxRecDepth 4000 in
theorem classifyRange32_eq : ∀ b, classifyRange32 b = classify .base32 b := by decide

/-- Settles O45: one finite fact a lookup. -/
theorem rangeSelectionComputesTheLookups : Obligations.RangeSelectionComputesTheLookups :=
  ⟨symRange64_eq, symRange32_eq, classifyRange64_eq, classifyRange32_eq⟩

end Sys2Proof.Machine
end

section
/-! PROOFS. The statements about CLR, SYM and IDX: each completes with its result (40_lookup.md R106 to R110). -/

namespace Sys2Proof.Machine

/-- Settles O9: CLR completes with `clearResult`. -/
theorem clrClearsTheResult : Obligations.ClrClearsTheResult := by
  refine ⟨rfl, fun s => ⟨_, exec_eq_complete .clr s, ?_, ⟨rfl, rfl, rfl, rfl⟩, s.finished_complete _⟩⟩
  rw [State.out_complete]
  exact ofLanes_zero

/-- Lookup by index reads the table of the family at the low W bits (40_lookup.md R106, R107). -/
theorem symbol_eq_rom (A : Family) (b : Byte) : symbol A b = (rom A).getD (b.toNat % 2 ^ A.width) 0 := by
  cases A <;> simp [symbol, sym64, sym32, rom, Family.width, BitVec.extractLsb'_toNat]

/-- A completion with the result of SYM shows the table's entry in every lane. -/
theorem State.complete_symLanes (s : State) (A : Family) (L : Operand) :
    (∀ i, i < 8 → lane (s.complete (symLanes A L)).out i = (rom A).getD ((lane L i).toNat % 2 ^ A.width) 0) ∧
      (s.complete (symLanes A L)).Shows false .ok 8 0 ∧ s.Finished (s.complete (symLanes A L)) := by
  refine ⟨fun i hi => ?_, ⟨rfl, rfl, rfl, rfl⟩, s.finished_complete _⟩
  rw [State.out_complete, lane_symLanes A L hi, symbol_eq_rom]

/-- Settles O10: the two commands complete with the `symLanes` of their family. -/
theorem symLooksUpEveryLane : Obligations.SymLooksUpEveryLane :=
  ⟨rfl, rfl, fun s => ⟨⟨_, exec_eq_complete .sym64 s, s.complete_symLanes .base64 s.lin⟩,
    ⟨_, exec_eq_complete .sym32 s, s.complete_symLanes .base32 s.lin⟩⟩⟩

theorem idxLanes_class (A : Family) (L : Operand) {j : Nat} (h : j < 8) :
    (idxLanes A L).cls.extractLsb' (2 * j) 2 = (classify A (lane L j)).1.code :=
  packClasses_lane (fun i => (classify A (lane L i)).1) h

/-- ERR of IDX: InvalidEncodingChar where a lane is INVALID (40_lookup.md R108). -/
theorem idxLanes_err_invalid {A : Family} {L : Operand} (h : ∃ j, j < 8 ∧ (classify A (lane L j)).1 = .invalid) :
    (idxLanes A L).err = .invalidEncodingChar :=
  if_pos ((anyInvalid_iff ..).mpr h)

/-- ERR of IDX: OK where no lane is INVALID (40_lookup.md R108). -/
theorem idxLanes_err_ok {A : Family} {L : Operand} (h : ∀ j, j < 8 → (classify A (lane L j)).1 ≠ .invalid) :
    (idxLanes A L).err = .ok :=
  if_neg fun hany => by
    obtain ⟨j, hj, hinv⟩ := (anyInvalid_iff ..).mp hany
    exact h j hj hinv

/-- Settles O11: the two commands complete with the `idxLanes` of their family. -/
theorem idxClassifiesEveryLane : Obligations.IdxClassifiesEveryLane := by
  refine ⟨rfl, rfl, fun s A i hi => ?_⟩
  have hexec : exec i s = .next (s.complete (idxLanes A s.lin)) := by
    obtain ⟨rfl, rfl⟩ | ⟨rfl, rfl⟩ := hi <;> exact exec_eq_complete _ s
  refine ⟨_, hexec, fun j hj => ⟨?_, idxLanes_class A s.lin hj⟩, rfl, rfl, idxLanes_err_invalid, idxLanes_err_ok,
    s.finished_complete _⟩
  rw [State.out_complete, lane_idxLanes A s.lin hj]

end Sys2Proof.Machine
end

section
/-! PROOFS. The scanning lookups: the comparisons they make, and that every command computes its result by them
(40_lookup.md R105, 42_codec.md R140). -/

namespace Sys2Proof.Machine

/-! ## The comparisons of a lookup -/

theorem rom_length (A : Family) : (rom A).length = 2 ^ A.width := by cases A <;> rfl

/-- The comparators of the table of a family, in order: what a lookup over the whole table exercises, see
`symbolScan_comparisons` and `classifyScan_comparisons`. -/
def tableComparisons (A : Family) : List Comparison := (List.range (2 ^ A.width)).map .entry

/-- The entries from `j` on are all compared. -/
theorem symScan_comparisons (i j : Nat) (es : List Byte) :
    (symScan i j es).2 = (List.range' j es.length).map .entry := by
  induction es generalizing j with
  | nil => rfl
  | cons e es ih => simp [symScan, ih, List.range'_succ]

/-- The entries from `j` on are all compared. -/
theorem indexScan_comparisons (b : Byte) (j : Nat) (es : List Byte) :
    (indexScan b j es).2 = (List.range' j es.length).map .entry := by
  induction es generalizing j with
  | nil => rfl
  | cons e es ih => simp [indexScan, ih, List.range'_succ]

theorem symbolScan_comparisons (A : Family) (b : Byte) : (symbolScan A b).2 = tableComparisons A := by
  rw [tableComparisons, symbolScan, symScan_comparisons, rom_length, List.range_eq_range']

theorem classifyScan_comparisons (A : Family) (b : Byte) : (classifyScan A b).2 = tableComparisons A ++ [.pad] := by
  simp only [tableComparisons, classifyScan, padScan, indexScan_comparisons, rom_length, List.range_eq_range']

/-- Settles O43: the scans recurse over the whole table, whatever is looked up. -/
theorem everyEntryIsCompared : Obligations.EveryEntryIsCompared := fun A b =>
  ⟨symbolScan_comparisons A b, classifyScan_comparisons A b⟩

/-! ## What a lookup gives -/

/-- A mask keeps a value or clears it. -/
theorem mask_and {n : Nat} (x : Bool) (v : BitVec n) : mask x &&& v = if x then v else 0 := by
  cases x
  · exact BitVec.zero_and
  · exact BitVec.allOnes_and

theorem symScan_cons (i j : Nat) (e : Byte) (es : List Byte) :
    (symScan i j (e :: es)).1 = if i = j then e ||| (symScan i (j + 1) es).1 else (symScan i (j + 1) es).1 := by
  by_cases h : i = j <;> simp [symScan, mask_and, -mask_true, -mask_false, h]

theorem indexScan_cons (b : Byte) (j : Nat) (e : Byte) (es : List Byte) :
    (indexScan b j (e :: es)).1 =
      if b = e then (true, BitVec.ofNat 8 j ||| (indexScan b (j + 1) es).1.2) else (indexScan b (j + 1) es).1 := by
  by_cases h : b = e
  · simp [indexScan, mask_and, -mask_true, h]
  · simp [indexScan, mask_and, -mask_false, beq_false_of_ne h, h]

/-- Where the index is below the entries scanned, nothing is OR-ed in. -/
theorem symScan_of_lt {i j : Nat} (h : i < j) (es : List Byte) : (symScan i j es).1 = 0 := by
  induction es generalizing j with
  | nil => rfl
  | cons e es ih => rw [symScan_cons, if_neg h.ne, ih (Nat.lt_succ_of_lt h)]

/-- The one entry OR-ed in is the indexed one. -/
theorem symScan_eq_getD (j k : Nat) (es : List Byte) : (symScan (j + k) j es).1 = es.getD k 0 := by
  induction es generalizing j k with
  | nil => rfl
  | cons e es ih =>
    rw [symScan_cons]
    cases k with
    | zero => simp [symScan_of_lt (Nat.lt_succ_self j)]
    | succ k => rw [if_neg (by omega), Nat.add_comm k, ← Nat.add_assoc, ih, Nat.add_comm 1, List.getD_cons_succ]

/-- A byte that is no entry hits nothing. -/
theorem indexScan_of_not_mem {b : Byte} {es : List Byte} (h : b ∉ es) (j : Nat) : (indexScan b j es).1 = (false, 0) := by
  induction es generalizing j with
  | nil => rfl
  | cons e es ih =>
    obtain ⟨hne, hnot⟩ := not_or.mp (List.mem_cons.not.mp h)
    rw [indexScan_cons, if_neg hne, ih hnot]

/-- In a table without repetitions the one index OR-ed in is that of the entry hit. -/
theorem indexScan_of_nodup {es : List Byte} (hes : es.Nodup) {n : Nat} {b : Byte} (h : es[n]? = some b) (j : Nat) :
    (indexScan b j es).1 = (true, BitVec.ofNat 8 (j + n)) := by
  induction es generalizing j n with
  | nil => simp at h
  | cons e es ih =>
    obtain ⟨hnot, hnodup⟩ := List.nodup_cons.mp hes
    rw [indexScan_cons]
    cases n with
    | zero =>
      obtain rfl : e = b := by simpa using h
      simp [indexScan_of_not_mem hnot]
    | succ n =>
      have hget : es[n]? = some b := by simpa using h
      have hne : b ≠ e := fun hbe => hnot (hbe ▸ List.mem_of_getElem? hget)
      rw [if_neg hne, ih hnodup hget, Nat.add_assoc, Nat.add_comm 1]

/-! ## The tables -/

theorem rom_nodup (A : Family) : (rom A).Nodup := by cases A <;> decide

/-- The entry of a table at an index is the index's symbol. -/
theorem rom_getElem? {A : Family} {i : Byte} (h : i.toNat < 2 ^ A.width) : (rom A)[i.toNat]? = some (symbol A i) := by
  have hlen : i.toNat < (rom A).length := (rom_length A).symm ▸ h
  rw [symbol_eq_rom, Nat.mod_eq_of_lt h, List.getD_eq_getElem _ _ hlen, List.getElem?_eq_getElem hlen]

theorem symbol_mem_rom (A : Family) (b : Byte) : symbol A b ∈ rom A := by
  have hlen : b.toNat % 2 ^ A.width < (rom A).length := (rom_length A).symm ▸ Nat.mod_lt _ (Nat.two_pow_pos _)
  rw [symbol_eq_rom, List.getD_eq_getElem _ _ hlen]
  exact List.getElem_mem hlen

/-- The entries of a table are the bytes its classifier finds VALID. -/
theorem mem_rom_iff (A : Family) (b : Byte) : b ∈ rom A ↔ (classify A b).1 = .valid := by
  have hrows : ∀ e ∈ rom A, (classify A e).1 = .valid := by cases A <;> decide
  exact ⟨hrows b, fun hv => symbol_classify A b hv ▸ symbol_mem_rom A _⟩

set_option maxRecDepth 4000 in
theorem classify_index_of_not_valid (A : Family) : ∀ b : Byte, (classify A b).1 ≠ .valid → (classify A b).2 = 0 := by
  cases A <;> decide

/-! ## The lookups -/

/-- The parallel compare by index is the lookup of the symbol. -/
theorem symbolScan_eq (A : Family) (b : Byte) : (symbolScan A b).1 = symbol A b := by
  rw [symbol_eq_rom, ← symScan_eq_getD 0, Nat.zero_add, symbolScan]

/-- A VALID byte hits the entry of its index. -/
theorem indexScan_of_valid {A : Family} {b : Byte} (hv : (classify A b).1 = .valid) :
    (indexScan b 0 (rom A)).1 = (true, (classify A b).2) := by
  have hget : (rom A)[(classify A b).2.toNat]? = some b := by
    rw [rom_getElem? (classify_index_lt A b), symbol_classify A b hv]
  rw [indexScan_of_nodup (rom_nodup A) hget, Nat.zero_add, BitVec.ofNat_toNat, BitVec.setWidth_eq]

/-- Any other byte hits none. -/
theorem indexScan_of_not_valid {A : Family} {b : Byte} (hv : (classify A b).1 ≠ .valid) :
    (indexScan b 0 (rom A)).1 = (false, 0) :=
  indexScan_of_not_mem ((mem_rom_iff A b).not.mpr hv) 0

/-- The class of a byte that hits no entry is that of its comparison with the pad byte. -/
theorem classOf_not_valid {A : Family} {b : Byte} (hv : (classify A b).1 ≠ .valid) :
    classOf false (b == padByte) = (classify A b).1 := by
  by_cases hpad : b = padByte
  · rw [hpad, classify_padByte]
    rfl
  · rw [beq_false_of_ne hpad]
    cases hc : (classify A b).1 with
    | invalid => rfl
    | valid => exact absurd hc hv
    | pad => exact absurd ((classify_eq_pad A b).mp hc) hpad
    | absent => exact absurd hc (classify_ne_absent A b)

/-- The parallel compare by symbol is the classification. -/
theorem classifyScan_eq (A : Family) (b : Byte) : (classifyScan A b).1 = classify A b := by
  by_cases hv : (classify A b).1 = .valid
  · have hclass (pad : Bool) : classOf true pad = .valid := by cases pad <;> rfl
    simp only [classifyScan, indexScan_of_valid hv, hclass]
    exact Prod.ext hv.symm rfl
  · simp only [classifyScan, indexScan_of_not_valid hv, padScan, classOf_not_valid hv]
    exact Prod.ext rfl (classify_index_of_not_valid A b hv).symm

/-! ## The commands -/

theorem symProbed_result (A : Family) (L : Operand) : (symProbed A L).1 = symLanes A L := by
  simp only [symProbed, symbolScan_eq, symLanes]

theorem encodeProbed_result (A : Family) (r : Nat) (L : Operand) : (encodeProbed A r L).1 = encodeBlock A r L := by
  simp only [encodeProbed, symbolScan_eq, encodeBlock]

theorem ofCode_mask_one (x : Bool) : ErrClass.ofCode (mask x &&& 1) = if x then .invalidEncodingChar else .ok := by
  cases x <;> rfl

theorem idxProbed_result (A : Family) (L : Operand) : (idxProbed A L).1 = idxLanes A L := by
  simp only [idxProbed, classifyScan_eq, anyTerm_invalidTerms, ofCode_mask_one]
  rfl

theorem decodeProbed_result (A : Family) (final : Bool) (m : Nat) (L : Operand) :
    (decodeProbed A final m L).1 = decodeGroup A final m L := by
  simp only [decodeProbed, classifyScan_eq]
  exact selectDecode_eq A final m _

theorem probedIfLegal_result (legal : Bool) (p : Result × List Probe) :
    (probedIfLegal legal p).1 = .ofLegal legal p.1 := by
  cases legal <;> rfl

theorem commandProbed_result (i : Instr) (L : Operand) : (commandProbed i L).1 = commandResult i L := by
  cases i with
  | clr | split64 | split32 | join64 | join32 => rfl
  | sym64 | sym32 => exact symProbed_result _ L
  | idx64 | idx32 => exact idxProbed_result _ L
  | enc64 r | enc32 r => exact (probedIfLegal_result ..).trans (congrArg _ (encodeProbed_result _ _ L))
  | dec64 | dec32 => exact decodeProbed_result _ _ _ L
  | dec64f m | dec32f m => exact (probedIfLegal_result ..).trans (congrArg _ (decodeProbed_result _ _ _ L))

/-- Settles O44: command by command, and an illegal word has the illegal result in both forms. -/
theorem scanningLookupsComputeTheResult : Obligations.ScanningLookupsComputeTheResult := by
  intro c L
  unfold wordProbed wordResult
  cases decode c with
  | ok i => exact commandProbed_result i L
  | error e => rfl

end Sys2Proof.Machine
end

section
/-! PROOFS. The observable trace of a command word: the units it exercises, and BUSY cycle by cycle (40_lookup.md R111,
70_reset_and_hazards.md R201, R202). -/

namespace Sys2Proof.Machine

/-! ## The units exercised -/

theorem symProbed_probes (A : Family) (L : Operand) :
    (symProbed A L).2 = probesOf 8 fun _ => tableComparisons A := by
  simp only [symProbed, symbolScan_comparisons]

theorem idxProbed_probes (A : Family) (L : Operand) :
    (idxProbed A L).2 = (probesOf 8 fun _ => tableComparisons A ++ [.pad]) ++
      (List.range 8).map fun j => .check (.invalid j) := by
  simp only [idxProbed, classifyScan_comparisons, checksOf_invalidTerms]

theorem encodeProbed_probes (A : Family) (r : Nat) (L : Operand) :
    (encodeProbed A r L).2 = probesOf A.groupSize fun _ => tableComparisons A := by
  simp only [encodeProbed, symbolScan_comparisons]

theorem decodeProbed_probes (A : Family) (final : Bool) (m : Nat) (L : Operand) :
    (decodeProbed A final m L).2 = (probesOf m fun _ => tableComparisons A ++ [.pad]) ++
      (((List.range m).map fun j => .check (.invalid j)) ++ ((List.range m).map fun j => .check (.leading j)) ++
        ((List.range m).map fun j => .check (.placement j)) ++
        ((countTargets A final m).map fun n => .check (.count n)) ++
        (legalCounts A).map fun n => .check (.ghost n)) := by
  simp only [decodeProbed, classifyScan_comparisons, checksOf_append, checksOf_invalidTerms, checksOf_leadingTerms,
    checksOf_placementTerms, checksOf_countTerms, checksOf_ghostTerms]

theorem probedIfLegal_probes (legal : Bool) (p : Result × List Probe) :
    (probedIfLegal legal p).2 = if legal then p.2 else [] := by
  cases legal <;> rfl

theorem commandProbed_probes_eq (i : Instr) (L M : Operand) : (commandProbed i L).2 = (commandProbed i M).2 := by
  cases i with
  | clr | split64 | split32 | join64 | join32 => rfl
  | sym64 | sym32 => simp only [commandProbed, symProbed_probes]
  | idx64 | idx32 => simp only [commandProbed, idxProbed_probes]
  | enc64 r | enc32 r => simp only [commandProbed, probedIfLegal_probes, encodeProbed_probes]
  | dec64 | dec32 => simp only [commandProbed, decodeProbed_probes]
  | dec64f m | dec32f m => simp only [commandProbed, probedIfLegal_probes, decodeProbed_probes]

/-- No unit a word exercises depends on the operand. -/
theorem wordProbed_probes_eq (c : Word) (L M : Operand) : (wordProbed c L).2 = (wordProbed c M).2 := by
  unfold wordProbed
  cases decode c with
  | ok i => exact commandProbed_probes_eq i L M
  | error e => rfl

/-! ## BUSY cycle by cycle -/

theorem busySequence_succ {s t : State} (h : step s = .next t) (n : Nat) :
    busySequence (n + 1) s = s.busy :: busySequence n t := by
  rw [busySequence, h]

/-- With nothing on the port the cycle is the engine's alone. -/
theorem step_of_port_nil {s : State} (h : s.port = []) : step s = .next (s.engineEnd s.busy) := by
  have hnext : s.nextCycle = ⟨false, none⟩ := by rw [State.nextCycle, h]; rfl
  rw [step_eq, hnext, s.taken_of_port_nil h, clockCycle_noAccess]

/-- With no command in flight and nothing on the port BUSY stays 0. -/
theorem busySequence_idle {s : State} (hb : s.busy = false) (hp : s.port = []) (n : Nat) :
    busySequence n s = List.replicate n false := by
  induction n with
  | zero => rfl
  | succ n ih =>
    have hstep : step s = .next s := by rw [step_of_port_nil hp, hb]; rfl
    rw [busySequence_succ hstep, hb, ih, List.replicate_succ]

/-- With a command in flight and nothing on the port BUSY is 1 for the CNT cycles left, and then 0. -/
theorem busySequence_inFlight (n : Nat) {s : State} (hb : s.busy = true) (hc : 1 ≤ s.cnt) (hp : s.port = []) :
    busySequence n s = List.replicate (min n s.cnt) true ++ List.replicate (n - s.cnt) false := by
  induction n generalizing s with
  | zero => simp [busySequence]
  | succ n ih =>
    rw [busySequence_succ (step_of_port_nil hp), hb, State.engineEnd, if_pos rfl]
    split_ifs with hlast
    · have hone : s.cnt = 1 := by omega
      rw [busySequence_idle (s := s.complete _) rfl hp, hone, Nat.add_sub_cancel, Nat.min_eq_right (Nat.succ_pos n)]
      rfl
    · obtain ⟨k, hk⟩ : ∃ k, s.cnt = k + 1 := ⟨s.cnt - 1, by omega⟩
      have hcount : s.countDown.cnt = k := by rw [State.countDown_cnt, hk, Nat.add_sub_cancel]
      rw [ih (s := s.countDown) hb (by omega) hp, hcount, hk, Nat.add_sub_add_right, Nat.add_min_add_right,
        List.replicate_succ, List.cons_append]

/-- A word issued from an idle block shows BUSY 0 in the cycle of the issue, 1 for LAT cycles, and then 0. -/
theorem busySequence_issue {s : State} (hb : s.busy = false) (c : Word) (n : Nat) :
    busySequence (n + 1) { s with port := [⟨false, some (.write 0x00 4 c)⟩] } =
      false :: (List.replicate (min n Config.LAT) true ++ List.replicate (n - Config.LAT) false) := by
  have hstep : step { s with port := [⟨false, some (.write 0x00 4 c)⟩] } = .next (State.issue { s with port := [] } c) :=
    acceptedIssueLatches { s with port := [⟨false, some (.write 0x00 4 c)⟩] } [] c rfl hb
  have hflight := busySequence_inFlight n (State.issue_busy { s with port := [] } c) (Nat.succ_pos Config.latMinusOne) rfl
  exact (busySequence_succ hstep n).trans (congrArg₂ List.cons hb hflight)

/-- Settles O42: `busySequence_issue` and `wordProbed_probes_eq` give both parts of the trace without the operand. -/
theorem observableTraceIgnoresOperand : Obligations.ObservableTraceIgnoresOperand := by
  intro n c s t hs ht
  unfold observableTrace
  rw [wordProbed_probes_eq c s.operand t.operand]
  cases n with
  | zero => exact ⟨rfl, fun h => absurd h (Nat.not_lt_zero _)⟩
  | succ n =>
    rw [busySequence_issue hs, busySequence_issue ht]
    refine ⟨rfl, fun h => ?_⟩
    have hmin : min n Config.LAT = Config.LAT := Nat.min_eq_right (Nat.le_of_lt_succ h)
    simp [CommandTrace.latency, hmin]

end Sys2Proof.Machine
end

section
/-! PROOFS. The bit stream of 41_bitpack.md R120: a group value carries the stream of the bytes it is made of and that of
the indices, so that packing and unpacking keep the stream; and lanes that carry one stream are the same lanes. -/

namespace Sys2Proof.Machine

/-! ## Words that carry a bit stream -/

/-- `v` holds the first bits of the stream of lanes of `width` meaningful bits, most significant bit first (41_bitpack.md
R120): see `rawValue_carries` and `indexValue_carries`. -/
def CarriesStream {len : Nat} (width : Nat) (f : Nat → Byte) (v : BitVec len) : Prop :=
  ∀ n, n < len → v.getLsbD (len - 1 - n) = streamBit width f n

/-- Bit `i` of lane `m`, counted from the most significant meaningful bit, is bit `width * m + i` of the stream. -/
theorem streamBit_lane {width : Nat} (f : Nat → Byte) (m : Nat) {i : Nat} (h : i < width) :
    streamBit width f (width * m + i) = (f m).getLsbD (width - 1 - i) := by
  rw [streamBit, Nat.mul_add_div (by omega), Nat.div_eq_of_lt h, Nat.mul_add_mod, Nat.mod_eq_of_lt h, Nat.add_zero]

/-- The meaningful bits of lane 0 carry the first bits of the stream. -/
theorem carriesStream_lane {width : Nat} {f : Nat → Byte} {x : BitVec width}
    (hx : ∀ i, i < width → x.getLsbD i = (f 0).getLsbD i) : CarriesStream width f x := by
  intro n hn
  have hbit := streamBit_lane f 0 hn
  rw [Nat.mul_zero, Nat.zero_add] at hbit
  rw [hbit, hx _ (by omega)]

/-- A word that carries `m` lanes carries one more with the meaningful bits of lane `m` appended. -/
theorem CarriesStream.append {width len : Nat} {f : Nat → Byte} {v : BitVec len} (hv : CarriesStream width f v)
    (m : Nat) (hlen : len = width * m) {x : BitVec width} (hx : ∀ i, i < width → x.getLsbD i = (f m).getLsbD i) :
    CarriesStream width f (v ++ x) := by
  intro n hn
  rw [BitVec.getLsbD_append]
  by_cases h : n < len
  · rw [if_neg (by omega), show len + width - 1 - n - width = len - 1 - n by omega, hv n h]
  · obtain ⟨i, rfl⟩ : ∃ i, n = width * m + i := ⟨n - len, by omega⟩
    rw [if_pos (by omega), show len + width - 1 - (width * m + i) = width - 1 - i by omega, hx _ (by omega),
      streamBit_lane f m (by omega)]

/-! ## The group value -/

/-- The group value of a raw block of the family (41_bitpack.md R122, R123). -/
def rawValue : (A : Family) → (Nat → Byte) → BitVec (8 * A.rawBytes)
  | .base64, b => rawValue64 b
  | .base32, b => rawValue32 b

/-- The group value of a group of indices of the family, only their low W bits used (41_bitpack.md R124, R125). -/
def indexValue : (A : Family) → (Nat → Byte) → BitVec (8 * A.rawBytes)
  | .base64, s => indexValue64 fun k => (s k).extractLsb' 0 6
  | .base32, s => indexValue32 fun k => (s k).extractLsb' 0 5

theorem rawValue_carries (A : Family) (b : Nat → Byte) : CarriesStream 8 b (rawValue A b) := by
  have bits (m i : Nat) (_ : i < 8) : (b m).getLsbD i = (b m).getLsbD i := rfl
  have two := (carriesStream_lane (bits 0)).append 1 rfl (bits 1)
  cases A with
  | base64 => exact two.append 2 rfl (bits 2)
  | base32 => exact ((two.append 2 rfl (bits 2)).append 3 rfl (bits 3)).append 4 rfl (bits 4)

theorem indexValue_carries (A : Family) (s : Nat → Byte) : CarriesStream A.width s (indexValue A s) := by
  have bits (m i : Nat) (h : i < A.width) : ((s m).extractLsb' 0 A.width).getLsbD i = (s m).getLsbD i := by
    simp [h]
  have four := (((carriesStream_lane (bits 0)).append 1 (by simp) (bits 1)).append 2 (by omega) (bits 2)).append 3
    (by omega) (bits 3)
  cases A with
  | base64 => exact four
  | base32 => exact (((four.append 4 rfl (bits 4)).append 5 rfl (bits 5)).append 6 rfl (bits 6)).append 7 rfl (bits 7)

/-- An index survives its lane. -/
theorem extractLsb'_setWidth {w v : Nat} (h : w ≤ v) (x : BitVec w) : (x.setWidth v).extractLsb' 0 w = x := by
  rw [← BitVec.setWidth_eq_extractLsb' h, BitVec.setWidth_setWidth_of_le _ h, BitVec.setWidth_eq]

/-- Packing keeps the group value. -/
theorem indexValue_pack (A : Family) (b : Nat → Byte) : indexValue A (pack A b) = rawValue A b := by
  cases A with
  | base64 =>
    exact (congrArg indexValue64 (funext fun k => extractLsb'_setWidth (by decide) (pack64 b k))).trans
      (indexValue64_pack64 b)
  | base32 =>
    exact (congrArg indexValue32 (funext fun k => extractLsb'_setWidth (by decide) (pack32 b k))).trans
      (indexValue32_pack32 b)

theorem rawValue64_unpack64 (s : Nat → BitVec 6) : rawValue64 (unpack64 s) = indexValue64 s := by
  apply BitVec.eq_of_getLsbD_eq
  intro i hi
  simp only [rawValue64, unpack64, BitVec.getLsbD_append, BitVec.getLsbD_extractLsb']
  grind

theorem rawValue32_unpack32 (s : Nat → BitVec 5) : rawValue32 (unpack32 s) = indexValue32 s := by
  apply BitVec.eq_of_getLsbD_eq
  intro i hi
  simp only [rawValue32, unpack32, BitVec.getLsbD_append, BitVec.getLsbD_extractLsb']
  grind

/-- Unpacking keeps the group value. -/
theorem rawValue_unpack (A : Family) (s : Nat → Byte) : rawValue A (unpack A s) = indexValue A s := by
  cases A with
  | base64 => exact rawValue64_unpack64 _
  | base32 => exact rawValue32_unpack32 _

/-! ## Packing and unpacking keep the stream -/

theorem streamBit_pack (A : Family) (b : Nat → Byte) {n : Nat} (h : n < 8 * A.rawBytes) :
    streamBit A.width (pack A b) n = streamBit 8 b n := by
  rw [← indexValue_carries A _ n h, indexValue_pack, rawValue_carries A b n h]

theorem streamBit_unpack (A : Family) (s : Nat → Byte) {n : Nat} (h : n < 8 * A.rawBytes) :
    streamBit 8 (unpack A s) n = streamBit A.width s n := by
  rw [← rawValue_carries A _ n h, rawValue_unpack, indexValue_carries A s n h]

/-- Lanes that carry one stream have the same meaningful bits. -/
theorem toNat_mod_eq_of_streamBit {width m : Nat} {f g : Nat → Byte}
    (h : ∀ n, n < width * m → streamBit width f n = streamBit width g n) {k : Nat} (hk : k < m) :
    (f k).toNat % 2 ^ width = (g k).toNat % 2 ^ width := by
  apply Nat.eq_of_testBit_eq
  intro i
  rw [Nat.testBit_mod_two_pow, Nat.testBit_mod_two_pow]
  by_cases hi : i < width
  · have hn : width * k + (width - 1 - i) < width * m := by
      have hle : width * (k + 1) ≤ width * m := Nat.mul_le_mul_left _ hk
      rw [Nat.mul_succ] at hle
      omega
    have hbit := h _ hn
    rw [streamBit_lane f k (by omega), streamBit_lane g k (by omega), Nat.sub_sub_self (by omega)] at hbit
    exact congrArg _ hbit
  · rw [decide_eq_false hi, Bool.false_and, Bool.false_and]

/-- Bytes that carry one stream are the same. -/
theorem eq_of_streamBit {m : Nat} {f g : Nat → Byte} (h : ∀ n, n < 8 * m → streamBit 8 f n = streamBit 8 g n) {j : Nat}
    (hj : j < m) : f j = g j := by
  have hmod := toNat_mod_eq_of_streamBit h hj
  rwa [Nat.mod_eq_of_lt (f j).isLt, Nat.mod_eq_of_lt (g j).isLt, ← BitVec.toNat_eq] at hmod

/-- The same lanes carry the same stream. -/
theorem streamBit_congr {width m : Nat} {f g : Nat → Byte} (h : ∀ j, j < m → f j = g j) {n : Nat} (hn : n < width * m) :
    streamBit width f n = streamBit width g n := by
  rw [streamBit, streamBit, h _ (Nat.div_lt_of_lt_mul hn)]

/-! ## Packing and unpacking are determined by the stream -/

/-- A raw block and its group of indices have equally many bits. -/
theorem width_mul_groupSize (A : Family) : A.width * A.groupSize = 8 * A.rawBytes := by cases A <;> rfl

/-- The indices of a block are the meaningful bits of any lanes that carry its stream. -/
theorem pack_toNat_of_streamBit {A : Family} {b s : Nat → Byte}
    (h : ∀ n, n < 8 * A.rawBytes → streamBit 8 b n = streamBit A.width s n) {k : Nat} (hk : k < A.groupSize) :
    (pack A b k).toNat = (s k).toNat % 2 ^ A.width := by
  rw [← Nat.mod_eq_of_lt (pack_lt A b k)]
  refine toNat_mod_eq_of_streamBit (fun n hn => ?_) hk
  rw [width_mul_groupSize A] at hn
  rw [streamBit_pack A b hn, h n hn]

/-- Packing reads the bytes of the raw block alone. -/
theorem pack_congr {A : Family} {b c : Nat → Byte} (h : ∀ j, j < A.rawBytes → b j = c j) (k : Nat) :
    pack A b k = pack A c k := by
  by_cases hk : k < A.groupSize
  · apply BitVec.eq_of_toNat_eq
    rw [pack_toNat_of_streamBit (s := pack A c) (fun n hn => ?_) hk, Nat.mod_eq_of_lt (pack_lt A c k)]
    rw [streamBit_congr h hn, streamBit_pack A c hn]
  · rw [pack_beyond A b (by omega), pack_beyond A c (by omega)]

/-- Unpacking reads the indices of the group alone. -/
theorem unpack_congr {A : Family} {s t : Nat → Byte} (h : ∀ k, k < A.groupSize → s k = t k) (j : Nat) :
    unpack A s j = unpack A t j := by
  by_cases hj : j < A.rawBytes
  · refine eq_of_streamBit (fun n hn => ?_) hj
    rw [streamBit_unpack A s hn, streamBit_unpack A t hn, streamBit_congr h ((width_mul_groupSize A).symm ▸ hn)]
  · rw [unpack_beyond A s (by omega), unpack_beyond A t (by omega)]

end Sys2Proof.Machine
end

section
/-! PROOFS. The statements about packing and about SPLIT and JOIN: each carries the bit stream (41_bitpack.md R120 to
R129). -/

namespace Sys2Proof.Machine

/-- Settles O7: both ways keep the bit stream, and lanes that carry one stream are the same. -/
theorem packingIsInvertible : Obligations.PackingIsInvertible := fun A f => by
  refine ⟨fun j hj => eq_of_streamBit (fun n hn => ?_) hj, fun k => pack_toNat_of_streamBit fun n => streamBit_unpack A f⟩
  rw [streamBit_unpack A _ hn, streamBit_pack A f hn]

/-- Settles O12: the two commands complete with the `splitBlock` of their family. -/
theorem splitCarriesTheBitStream : Obligations.SplitCarriesTheBitStream := by
  refine ⟨rfl, rfl, fun s A i hi => ?_⟩
  obtain ⟨hG, -⟩ := Family.sizes_le A
  have hexec : exec i s = .next (s.complete (splitBlock A s.lin)) := by
    obtain ⟨rfl, rfl⟩ | ⟨rfl, rfl⟩ := hi <;> exact exec_eq_complete _ s
  have hlane (k : Nat) (h : k < 8) : lane (s.complete (splitBlock A s.lin)).out k = pack A (lane s.lin) k := by
    rw [State.out_complete, lane_splitBlock A s.lin h]
  have hcount : (splitBlock A s.lin).count.toNat = A.groupSize := by
    cases A <;> rfl
  refine ⟨_, hexec, fun n hn => ?_, fun k hk => ?_, fun k hk h => ?_, ⟨rfl, rfl, hcount, rfl⟩, s.finished_complete _⟩
  · rw [streamBit_congr (m := A.groupSize) (fun k hk => hlane k (by omega)) ((width_mul_groupSize A).symm ▸ hn),
      streamBit_pack A _ hn]
  · rw [hlane k (by omega)]
    exact pack_lt A _ k
  · rw [hlane k h, pack_beyond A _ hk]

/-- Settles O13: the two commands complete with the `joinBlock` of their family. -/
theorem joinCarriesTheBitStream : Obligations.JoinCarriesTheBitStream := by
  refine ⟨rfl, rfl, fun s A i hi => ?_⟩
  obtain ⟨-, hRB⟩ := Family.sizes_le A
  have hexec : exec i s = .next (s.complete (joinBlock A s.lin)) := by
    obtain ⟨rfl, rfl⟩ | ⟨rfl, rfl⟩ := hi <;> exact exec_eq_complete _ s
  have hlane (j : Nat) (h : j < 8) : lane (s.complete (joinBlock A s.lin)).out j = unpack A (lane s.lin) j := by
    rw [State.out_complete, lane_joinBlock A s.lin h]
  have hcount : (joinBlock A s.lin).count.toNat = A.rawBytes := by
    cases A <;> rfl
  refine ⟨_, hexec, fun n hn => ?_, fun j hj h => ?_, ⟨rfl, rfl, hcount, rfl⟩, s.finished_complete _⟩
  · rw [streamBit_congr (fun j hj => hlane j (by omega)) hn, streamBit_unpack A _ hn]
  · rw [hlane j h, unpack_beyond A _ hj]

end Sys2Proof.Machine
end

section
/-! PROOFS. The layers of the codec: SYM after SPLIT is ENC of a full block, and JOIN after IDX is DEC of a group of VALID
symbols (41_bitpack.md R130). -/

namespace Sys2Proof.Machine

/-! ## Encode -/

/-- The indices of a full block are those of its bytes: nothing is zero filled. -/
theorem blockIndex_rawBytes (A : Family) (L : Operand) (j : Nat) : blockIndex A A.rawBytes L j = pack A (lane L) j :=
  pack_congr (fun _ h => if_pos h) j

/-- Every lane of the group of a full block carries data. -/
theorem dataSymbols_rawBytes (A : Family) : dataSymbols A A.rawBytes = A.groupSize := by cases A <;> rfl

theorem lane_symLanes_splitBlock (A : Family) (L : Operand) {j : Nat} (h : j < A.groupSize) :
    lane (symLanes A (splitBlock A L).out).out j = lane (encodeBlock A A.rawBytes L).out j := by
  have h8 : j < 8 := h.trans_le (Family.sizes_le A).1
  rw [lane_symLanes A _ h8, lane_splitBlock A L h8, lane_encodeBlock A _ L h8, encodedLane, if_pos h,
    dataSymbols_rawBytes, if_pos h, blockIndex_rawBytes]

/-! ## Decode -/

/-- A decode whose group passes every check succeeds (42_codec.md R150). -/
theorem decodeResult_eq_decodeSuccess {A : Family} {final : Bool} {m k : Nat} {look : Nat → LaneClass × Byte}
    (hk : leadingValid m (presentClass m look) = k) (hinvalid : anyInvalid m (presentClass m look) = false)
    (hpads : padPlacement m k (presentClass m look) = true) (hcount : padCount A final m k = true)
    (hghosts : ghostClear A k (presentIndex m look) = true) :
    decodeResult A final m look = decodeSuccess A k (presentIndex m look) (packClasses (presentClass m look)) := by
  simp [decodeResult, hk, hinvalid, hpads, hcount, hghosts]

/-- The last index of a full group has no ghost bits. -/
theorem ghostClear_groupSize (A : Family) (idx : Nat → Byte) : ghostClear A A.groupSize idx = true := by
  have hlegal : A.groupSize ∈ legalCounts A := by cases A <;> decide
  have hmask : ghostMask A A.groupSize = 0 := by cases A <;> rfl
  rw [ghostClear_iff, hmask]
  exact ⟨hlegal, BitVec.and_zero⟩

/-- A group of VALID symbols that is not the final one decodes to all of its indices. -/
theorem decodeGroup_of_valid {A : Family} {L : Operand}
    (hv : ∀ j, j < A.groupSize → (classify A (lane L j)).1 = .valid) :
    ∃ cls, decodeGroup A false A.groupSize L =
      decodeSuccess A A.groupSize (presentIndex A.groupSize fun j => classify A (lane L j)) cls := by
  have hclass (j : Nat) (hj : j < A.groupSize) :
      presentClass A.groupSize (fun j => classify A (lane L j)) j = .valid := (if_pos hj).trans (hv j hj)
  refine ⟨_, decodeResult_eq_decodeSuccess ?_ ?_ ?_ ?_ (ghostClear_groupSize A _)⟩
  · exact leadingValid_eq le_rfl hclass fun h => absurd h (lt_irrefl _)
  · rw [Bool.eq_false_iff, ne_eq, anyInvalid_iff]
    rintro ⟨j, hj, hinvalid⟩
    rw [hclass j hj] at hinvalid
    exact nomatch hinvalid
  · exact (padPlacement_iff ..).mpr fun j hle hlt => absurd hlt (Nat.not_lt.mpr hle)
  · exact (padCount_iff ..).mpr (.inl ⟨rfl, rfl⟩)

/-- A full group decodes to a full block. -/
theorem decodedBytes_groupSize (A : Family) : decodedBytes A A.groupSize = A.rawBytes := by cases A <;> rfl

theorem joinBlock_idxLanes {A : Family} {L : Operand}
    (hv : ∀ j, j < A.groupSize → (classify A (lane L j)).1 = .valid) :
    (joinBlock A (idxLanes A L).out).out = (decodeGroup A false A.groupSize L).out := by
  obtain ⟨cls, hdec⟩ := decodeGroup_of_valid hv
  refine operand_ext fun j hj => ?_
  rw [hdec, lane_joinBlock A _ hj, lane_decodeSuccess A _ _ cls hj, decodedBytes_groupSize]
  by_cases hraw : j < A.rawBytes
  · rw [if_pos hraw]
    refine unpack_congr (fun k hk => ?_) j
    rw [lane_idxLanes A L (hk.trans_le (Family.sizes_le A).1), if_pos hk, presentIndex, if_pos hk]
  · rw [if_neg hraw, unpack_beyond A _ (by omega)]

/-! ## The commands -/

/-- Settles O20: each command completes with the result of its family, and the results compose. -/
theorem layersCompose : Obligations.LayersCompose := by
  intro A split sym enc idx join dec hfamily s t u hu
  have hresult (L : Operand) : commandResult split L = splitBlock A L ∧ commandResult sym L = symLanes A L ∧
      commandResult enc L = encodeBlock A A.rawBytes L ∧ commandResult idx L = idxLanes A L ∧
      commandResult join L = joinBlock A L ∧ commandResult dec L = decodeGroup A false A.groupSize L := by
    rcases hfamily with h | h <;> cases h <;> exact ⟨rfl, rfl, rfl, rfl, rfl, rfl⟩
  obtain ⟨hsplit, -, henc, hidx, -, hdec⟩ := hresult s.lin
  obtain ⟨-, hsym, -, -, hjoin, -⟩ := hresult u.lin
  rw [exec_eq_complete split, exec_eq_complete idx, hsplit, hidx]
  constructor
  · rintro ⟨⟩
    refine ⟨_, _, exec_eq_complete sym u, exec_eq_complete enc s, fun j hj => ?_⟩
    rw [State.out_complete, State.out_complete, hsym, henc, hu, State.out_complete, lane_symLanes_splitBlock A s.lin hj]
  · rintro ⟨⟩ hv
    refine ⟨_, _, exec_eq_complete join u, exec_eq_complete dec s, ?_⟩
    rw [State.out_complete, State.out_complete, hjoin, hdec, hu, State.out_complete, joinBlock_idxLanes hv]

end Sys2Proof.Machine
end

section
/-! PROOFS. The length tables of the codec: data symbols, decoded bytes, ghost bits (42_codec.md R141, R144, R173). -/

namespace Sys2Proof.Machine

/-- The bytes of the data symbols of `r` bytes are the `r` bytes. -/
theorem decodedBytes_dataSymbols (A : Family) (r : Nat) : decodedBytes A (dataSymbols A r) = r := by
  cases A <;> simp only [decodedBytes, dataSymbols, Family.width] <;> omega

theorem dataSymbols_le_groupSize {A : Family} {r : Nat} (h : r ≤ A.rawBytes) : dataSymbols A r ≤ A.groupSize := by
  cases A <;> simp only [dataSymbols, Family.width, Family.rawBytes, Family.groupSize] at h ⊢ <;> omega

theorem width_mul_dataSymbols_le {A : Family} {r : Nat} (h : r ≤ A.rawBytes) :
    A.width * dataSymbols A r ≤ 8 * A.rawBytes :=
  width_mul_groupSize A ▸ Nat.mul_le_mul_left _ (dataSymbols_le_groupSize h)

/-- The legal symbol counts are those of the raw blocks. -/
theorem mem_legalCounts_iff (A : Family) (k : Nat) :
    k ∈ legalCounts A ↔ ∃ r, 1 ≤ r ∧ r ≤ A.rawBytes ∧ dataSymbols A r = k := by
  constructor
  · intro hk
    obtain ⟨-, -, hraw, hpos, hsym⟩ := legalCounts_bounds A hk
    exact ⟨_, hpos, hraw, hsym⟩
  · rintro ⟨r, hpos, hraw, rfl⟩
    cases A <;> simp only [Family.rawBytes] at hraw <;> interval_cases r <;> decide

/-- Settles O8: the tables are evaluated, and the legal counts are those of the raw blocks. -/
theorem lengthTables : Obligations.LengthTables :=
  ⟨by decide, by decide, by decide, by decide, mem_legalCounts_iff .base64, mem_legalCounts_iff .base32⟩

/-- Settles O46: a whole group of symbols has exactly the bits of a raw block. -/
theorem decodedSizeForms : Obligations.DecodedSizeForms := by
  intro A e
  have hsplit : A.width * e = 8 * (e / A.groupSize * A.rawBytes) + A.width * (e % A.groupSize) := by
    calc A.width * e
        = A.width * (A.groupSize * (e / A.groupSize) + e % A.groupSize) := by rw [Nat.div_add_mod]
      _ = A.width * A.groupSize * (e / A.groupSize) + A.width * (e % A.groupSize) := by rw [Nat.mul_add, Nat.mul_assoc]
      _ = _ := by rw [width_mul_groupSize, Nat.mul_assoc, Nat.mul_comm A.rawBytes]
  have hforms : decodedMaxSize A e = e / A.groupSize * A.rawBytes + A.width * (e % A.groupSize) / 8 := by
    rw [decodedMaxSize, hsplit, Nat.mul_add_div (by decide)]
  exact ⟨hforms, fun hwhole => by rw [hforms, hwhole, Nat.mul_zero, Nat.zero_div, Nat.add_zero]⟩

/-- The ghost bits are fewer than the bits of an index, and follow the bits of the decoded bytes. -/
theorem ghostBits_spec (A : Family) (k : Nat) :
    8 * decodedBytes A k + ghostBits A k = A.width * k ∧ ghostBits A k < 8 := by
  rw [ghostBits, decodedBytes]
  omega

theorem ghostBits_le_width {A : Family} {k : Nat} (h : k ∈ legalCounts A) : ghostBits A k ≤ A.width := by
  cases A <;> revert k <;> decide

/-- The low `g` bits of lane `m` are the last `g` of its bits in the stream. -/
theorem mod_two_pow_eq_zero_iff_streamBit {width g : Nat} (hg : g ≤ width) (f : Nat → Byte) (m : Nat) :
    (f m).toNat % 2 ^ g = 0 ↔
      ∀ n, width * (m + 1) - g ≤ n → n < width * (m + 1) → streamBit width f n = false := by
  rw [Nat.mul_succ]
  constructor
  · intro hzero n hle hlt
    obtain ⟨i, rfl⟩ : ∃ i, n = width * m + i := ⟨n - width * m, by omega⟩
    have hbit := Nat.testBit_mod_two_pow (f m).toNat g (width - 1 - i)
    rw [hzero, Nat.zero_testBit, decide_eq_true (by omega), Bool.true_and] at hbit
    rw [streamBit_lane f m (by omega)]
    exact hbit.symm
  · intro hzero
    apply Nat.eq_of_testBit_eq
    intro i
    rw [Nat.testBit_mod_two_pow, Nat.zero_testBit]
    by_cases hi : i < g
    · have hbit := hzero (width * m + (width - 1 - i)) (by omega) (by omega)
      rw [streamBit_lane f m (by omega), Nat.sub_sub_self (by omega)] at hbit
      rw [decide_eq_true hi, Bool.true_and]
      exact hbit
    · rw [decide_eq_false hi, Bool.false_and]

/-- The ghost bits of `k` indices are zero where the stream is, beyond the decoded bytes (42_codec.md R155). -/
theorem ghosts_zero_iff_streamBit {A : Family} {k : Nat} (hk : k ∈ legalCounts A) (f : Nat → Byte) :
    (f (k - 1)).toNat % 2 ^ ghostBits A k = 0 ↔
      ∀ n, 8 * decodedBytes A k ≤ n → n < A.width * k → streamBit A.width f n = false := by
  obtain ⟨htwo, -⟩ := legalCounts_bounds A hk
  obtain ⟨hbits, -⟩ := ghostBits_spec A k
  rw [mod_two_pow_eq_zero_iff_streamBit (ghostBits_le_width hk), Nat.sub_add_cancel (by omega), ← hbits,
    Nat.add_sub_cancel]

/-- The mask keeps the ghost bits (42_codec.md R144). -/
theorem and_ghostMask_eq_zero_iff (A : Family) (k : Nat) (b : Byte) :
    b &&& ghostMask A k = 0 ↔ b.toNat % 2 ^ ghostBits A k = 0 := by
  obtain ⟨-, hlt⟩ := ghostBits_spec A k
  have hpow : 2 ^ ghostBits A k - 1 < 2 ^ 8 :=
    (Nat.sub_le _ _).trans_lt (Nat.pow_lt_pow_right (by decide) hlt)
  rw [← BitVec.toNat_inj, BitVec.toNat_and, ghostMask, BitVec.toNat_ofNat, Nat.mod_eq_of_lt hpow,
    Nat.and_two_pow_sub_one_eq_mod]
  rfl

end Sys2Proof.Machine
end

section
/-! PROOFS. The statements about ENC: the symbols of the block's indices, then pads (42_codec.md R141 to R143, R176). -/

namespace Sys2Proof.Machine

/-! ## The result of ENC -/

/-- The indices of a block of `r` bytes carry the stream of the bytes, then zeros. -/
theorem streamBit_blockIndex (A : Family) (r : Nat) (L : Operand) {n : Nat} (hn : n < 8 * A.rawBytes) :
    streamBit A.width (blockIndex A r L) n = (decide (n < 8 * r) && streamBit 8 (lane L) n) := by
  refine (streamBit_pack A _ hn).trans ?_
  by_cases h : n < 8 * r
  · simp [streamBit, h, Nat.div_lt_of_lt_mul h]
  · simp [streamBit, h, show ¬n / 8 < r by omega]

theorem blockIndex_lt (A : Family) (r : Nat) (L : Operand) (j : Nat) : (blockIndex A r L j).toNat < 2 ^ A.width :=
  pack_lt A _ j

theorem lane_encodeBlock_data {A : Family} {r j : Nat} (hr : r ≤ A.rawBytes) (hj : j < dataSymbols A r)
    (L : Operand) : lane (encodeBlock A r L).out j = symbol A (blockIndex A r L j) := by
  have hG : j < A.groupSize := hj.trans_le (dataSymbols_le_groupSize hr)
  rw [lane_encodeBlock A r L (hG.trans_le (Family.sizes_le A).1), encodedLane, if_pos hG, if_pos hj]

theorem lane_encodeBlock_pad {A : Family} {r j : Nat} (hk : dataSymbols A r ≤ j) (hj : j < A.groupSize)
    (L : Operand) : lane (encodeBlock A r L).out j = padByte := by
  rw [lane_encodeBlock A r L (hj.trans_le (Family.sizes_le A).1), encodedLane, if_pos hj, if_neg (by omega)]

theorem lane_encodeBlock_beyond {A : Family} {j : Nat} (hG : A.groupSize ≤ j) (hj : j < 8) (r : Nat) (L : Operand) :
    lane (encodeBlock A r L).out j = 0 := by
  rw [lane_encodeBlock A r L hj, encodedLane, if_neg (by omega)]

/-! ## The commands -/

/-- An encode command has a legal byte count, and its result is that of its family's encoder. -/
theorem encodeForm_spec {i : Instr} {A : Family} {r : Nat} (h : encodeForm i = some (A, r)) (hi : WellFormed i) :
    1 ≤ r ∧ r ≤ A.rawBytes ∧ ∀ L, commandResult i L = encodeBlock A r L := by
  cases i with
  | enc64 n | enc32 n =>
    cases h
    obtain ⟨hpos, hle⟩ := of_decide_eq_true hi
    exact ⟨hpos, hle, fun L => by rw [commandResult, hi, Result.ofLegal_true]⟩
  | clr | sym64 | sym32 | idx64 | idx32 | split64 | split32 | join64 | join32 | dec64 | dec64f _ | dec32 | dec32f _ =>
    exact nomatch h

/-- Settles O14: the indices are those of the block, which carry its stream. -/
theorem encEmitsSymbolsThenPads : Obligations.EncEmitsSymbolsThenPads := by
  intro s i A r hform hi
  obtain ⟨-, hraw, hresult⟩ := encodeForm_spec hform hi
  refine ⟨_, exec_eq_complete i s, ?_⟩
  rw [State.out_complete, hresult]
  have hcount : (encodeBlock A r s.lin).count.toNat = A.groupSize := by cases A <;> rfl
  refine ⟨⟨blockIndex A r s.lin,
      fun j hj => ⟨blockIndex_lt A r _ j, lane_encodeBlock_data hraw hj _⟩, fun n hn => ?_⟩,
    fun j hk hj => lane_encodeBlock_pad hk hj _, fun j hG hj => lane_encodeBlock_beyond hG hj r _,
    ⟨rfl, rfl, hcount, rfl⟩, s.finished_complete _⟩
  exact streamBit_blockIndex A r s.lin (hn.trans_le (width_mul_dataSymbols_le hraw))

/-- Settles O18: a lane of the group holds a symbol, an entry of the table, or the pad. -/
theorem encodeAlphabetClosure : Obligations.EncodeAlphabetClosure := by
  intro s i A r hform hi
  obtain ⟨-, hraw, hresult⟩ := encodeForm_spec hform hi
  refine ⟨_, exec_eq_complete i s, fun j hj => ?_⟩
  rw [State.out_complete, hresult]
  obtain hk | hk := Nat.lt_or_ge j (dataSymbols A r)
  · exact .inl (lane_encodeBlock_data hraw hk s.lin ▸ symbol_mem_rom A _)
  · exact .inr (lane_encodeBlock_pad hk hj s.lin)

end Sys2Proof.Machine
end

section
/-! PROOFS. The statements about DEC: what a decode does with a group, by the group's own lanes (42_codec.md R150 to
R163). -/

namespace Sys2Proof.Machine

/-! ## The checks of a group -/

/-- The lookups of the lanes of an operand. -/
def laneLookups (A : Family) (L : Operand) (j : Nat) : LaneClass × Byte := classify A (lane L j)

theorem presentClass_of_lt {m j : Nat} (h : j < m) (look : Nat → LaneClass × Byte) :
    presentClass m look j = (look j).1 := if_pos h

theorem presentIndex_of_lt {m j : Nat} (h : j < m) (look : Nat → LaneClass × Byte) :
    presentIndex m look j = (look j).2 := if_pos h

theorem anyInvalid_presentClass_iff (m : Nat) (look : Nat → LaneClass × Byte) :
    anyInvalid m (presentClass m look) = true ↔ ∃ j, j < m ∧ (look j).1 = .invalid := by
  rw [anyInvalid_iff]
  exact exists_congr fun j => and_congr_right fun hj => by rw [presentClass_of_lt hj]

theorem AcceptedGroup.class_pad {A : Family} {final : Bool} {m k : Nat} {L : Operand}
    (h : AcceptedGroup A final m L k) {j : Nat} (hk : k ≤ j) (hj : j < m) : (classify A (lane L j)).1 = .pad := by
  rw [h.pads j hk hj, classify_padByte]

theorem AcceptedGroup.not_invalid {A : Family} {final : Bool} {m k : Nat} {L : Operand}
    (h : AcceptedGroup A final m L k) {j : Nat} (hj : j < m) : (classify A (lane L j)).1 ≠ .invalid := by
  obtain hk | hk := Nat.lt_or_ge j k
  · rw [h.data j hk]
    decide
  · rw [h.class_pad hk hj]
    decide

/-- An accepted group passes every check. -/
theorem AcceptedGroup.decodeGroup_eq {A : Family} {final : Bool} {m k : Nat} {L : Operand}
    (h : AcceptedGroup A final m L k) (hm : m ≤ A.groupSize) :
    decodeGroup A final m L = decodeSuccess A k (presentIndex m (laneLookups A L)) (decodeClasses A m L) := by
  obtain ⟨htwo, -⟩ := legalCounts_bounds A h.legal
  have hkm := h.le
  have hpads (j : Nat) (hk : k ≤ j) (hj : j < m) : presentClass m (laneLookups A L) j = .pad :=
    (presentClass_of_lt hj _).trans (h.class_pad hk hj)
  refine decodeResult_eq_decodeSuccess ?_ ?_ ?_ ?_ ?_
  · refine leadingValid_eq hkm (fun j hj => ?_) fun hlt => ?_
    · exact (presentClass_of_lt (hj.trans_le hkm) _).trans (h.data j hj)
    · exact (hpads k le_rfl hlt).symm ▸ by decide
  · rw [Bool.eq_false_iff, ne_eq, anyInvalid_presentClass_iff]
    exact fun ⟨j, hj, hinvalid⟩ => h.not_invalid hj hinvalid
  · exact (padPlacement_iff ..).mpr hpads
  · rw [padCount_iff]
    cases final with
    | false => exact .inl ⟨rfl, h.whole rfl⟩
    | true => exact .inr ⟨rfl, h.legal, (Nat.lt_or_eq_of_le hm).symm.imp_right h.unpadded⟩
  · rw [ghostClear_iff, and_ghostMask_eq_zero_iff, presentIndex_of_lt (by omega)]
    exact ⟨h.legal, h.ghosts⟩

/-- A group that passes every check with its leading VALID lanes is accepted with them. -/
theorem acceptedGroup_of_checks {A : Family} {final : Bool} {m k : Nat} {L : Operand}
    (hk : leadingValid m (presentClass m (laneLookups A L)) = k)
    (hpads : padPlacement m k (presentClass m (laneLookups A L)) = true) (hcount : padCount A final m k = true)
    (hghosts : ghostClear A k (presentIndex m (laneLookups A L)) = true) : AcceptedGroup A final m L k := by
  have hle : k ≤ m := hk ▸ leadingValid_le m _
  have hvalid (j : Nat) (hj : j < k) : presentClass m (laneLookups A L) j = .valid := leadingValid_valid (hk ▸ hj)
  rw [padPlacement_iff] at hpads
  rw [padCount_iff] at hcount
  rw [ghostClear_iff, and_ghostMask_eq_zero_iff] at hghosts
  obtain ⟨hlegal, hghosts⟩ := hghosts
  obtain ⟨htwo, hG, -⟩ := legalCounts_bounds A hlegal
  rw [presentIndex_of_lt (by omega)] at hghosts
  exact {
    le := hle
    data := fun j hj => (presentClass_of_lt (hj.trans_le hle) _).symm.trans (hvalid j hj)
    pads := fun j hk hj => (classify_eq_pad A _).mp ((presentClass_of_lt hj _).symm.trans (hpads j hk hj))
    legal := hlegal
    whole := fun hf => by
      obtain ⟨-, hk⟩ | ⟨ht, -⟩ := hcount
      · exact hk
      · exact nomatch hf.symm.trans ht
    unpadded := fun hlt => by
      obtain ⟨-, hk⟩ | ⟨-, -, hk⟩ := hcount
      · omega
      · exact hk.resolve_left hlt.ne
    ghosts := hghosts }

/-- What a decode can do, by the lanes of its group (42_codec.md R152 to R157, 60_exceptions.md R184). -/
theorem decodeGroup_cases {A : Family} {m : Nat} (hm : m ≤ A.groupSize) (final : Bool) (L : Operand) :
    ((∃ j, j < m ∧ (classify A (lane L j)).1 = .invalid) ∧
        decodeGroup A final m L = .failed .invalidEncodingChar (decodeClasses A m L)) ∨
      (∃ k, AcceptedGroup A final m L k) ∨
      ((∀ j, j < m → (classify A (lane L j)).1 ≠ .invalid) ∧ (∀ k, ¬AcceptedGroup A final m L k) ∧
        decodeGroup A final m L = .failed .badPadding (decodeClasses A m L)) := by
  obtain ⟨hinvalid, e⟩ | ⟨-, hpads, hcount, hghosts, -⟩ | ⟨hvalid, -, e⟩ :=
    decodeResult_cases A final m (laneLookups A L)
  · exact .inl ⟨(anyInvalid_presentClass_iff ..).mp hinvalid, e⟩
  · exact .inr (.inl ⟨_, acceptedGroup_of_checks rfl hpads hcount hghosts⟩)
  · rw [Bool.eq_false_iff, ne_eq, anyInvalid_presentClass_iff] at hvalid
    refine .inr (.inr ⟨fun j hj hinvalid => hvalid ⟨j, hj, hinvalid⟩, fun k hk => ?_, e⟩)
    have herr := congrArg Result.err ((hk.decodeGroup_eq hm).symm.trans e)
    exact nomatch herr

/-! ## The result of a successful decode -/

section
variable {A : Family} {final : Bool} {m k : Nat} {L : Operand} (h : AcceptedGroup A final m L k)
  (hm : m ≤ A.groupSize)
include h hm

theorem AcceptedGroup.decodeGroup_ill : (decodeGroup A final m L).ill = false := by rw [h.decodeGroup_eq hm]; rfl

theorem AcceptedGroup.decodeGroup_err : (decodeGroup A final m L).err = .ok := by rw [h.decodeGroup_eq hm]; rfl

theorem AcceptedGroup.decodeGroup_cls : (decodeGroup A final m L).cls = decodeClasses A m L := by
  rw [h.decodeGroup_eq hm]; rfl

theorem AcceptedGroup.decodeGroup_count : (decodeGroup A final m L).count.toNat = decodedBytes A k := by
  obtain ⟨-, -, hbytes, -⟩ := legalCounts_bounds A h.legal
  obtain ⟨-, hraw⟩ := Family.sizes_le A
  rw [h.decodeGroup_eq hm, decodeSuccess, BitVec.toNat_ofNat]
  omega

theorem AcceptedGroup.lane_decodeGroup_beyond {j : Nat} (hb : decodedBytes A k ≤ j) (hj : j < 8) :
    lane (decodeGroup A final m L).out j = 0 := by
  rw [h.decodeGroup_eq hm, lane_decodeSuccess A _ _ _ hj, if_neg (by omega)]

/-- The decoded bytes carry the stream of the indices. -/
theorem AcceptedGroup.streamBit_decodeGroup {n : Nat} (hn : n < 8 * decodedBytes A k) :
    streamBit 8 (lane (decodeGroup A final m L).out) n = streamBit A.width (fun j => (classify A (lane L j)).2) n := by
  obtain ⟨-, -, hbytes, -⟩ := legalCounts_bounds A h.legal
  obtain ⟨-, hraw⟩ := Family.sizes_le A
  obtain ⟨hbits, -⟩ := ghostBits_spec A k
  have hlane (j : Nat) (hj : j < decodedBytes A k) : lane (decodeGroup A final m L).out j =
      unpack A (fun i => if i < k then presentIndex m (laneLookups A L) i else 0) j := by
    rw [h.decodeGroup_eq hm, lane_decodeSuccess A _ _ _ (by omega), if_pos hj]
  have hindex (j : Nat) (hj : j < k) :
      (if j < k then presentIndex m (laneLookups A L) j else 0) = (classify A (lane L j)).2 :=
    (if_pos hj).trans (presentIndex_of_lt (hj.trans_le h.le) _)
  rw [streamBit_congr hlane hn, streamBit_unpack A _ (by omega), streamBit_congr hindex (by omega)]

end

/-! ## The commands -/

/-- A decode command has a symbol count of at most a group, and its result is that of its family's decoder. -/
theorem decodeForm_spec {i : Instr} {A : Family} {final : Bool} {m : Nat} (h : decodeForm i = some (A, final, m))
    (hi : WellFormed i) : m ≤ A.groupSize ∧ ∀ L, commandResult i L = decodeGroup A final m L := by
  cases i with
  | dec64 | dec32 =>
    cases h
    exact ⟨le_rfl, fun L => rfl⟩
  | dec64f n | dec32f n =>
    cases h
    obtain ⟨-, hle⟩ := of_decide_eq_true hi
    exact ⟨hle, fun L => by rw [commandResult, hi, Result.ofLegal_true]⟩
  | clr | sym64 | sym32 | idx64 | idx32 | split64 | split32 | join64 | join32 | enc64 _ | enc32 _ => exact nomatch h

/-- Settles O15: an accepted group passes every check, and its decoded bytes carry the stream of its indices. -/
theorem decSucceedsOnAcceptedGroups : Obligations.DecSucceedsOnAcceptedGroups := by
  intro s i A final m k hform hi hk
  obtain ⟨hm, hresult⟩ := decodeForm_spec hform hi
  refine ⟨_, exec_eq_complete i s, ?_⟩
  rw [State.out_complete, hresult]
  exact ⟨fun n => hk.streamBit_decodeGroup hm, fun j => hk.lane_decodeGroup_beyond hm,
    ⟨hk.decodeGroup_ill hm, hk.decodeGroup_err hm, hk.decodeGroup_count hm, hk.decodeGroup_cls hm⟩,
    s.finished_complete _⟩

/-- A decode command whose group fails completes with the failure (60_exceptions.md R181). -/
theorem exec_of_failed {i : Instr} {s : State} {e : ErrClass} {cls : BitVec 16}
    (h : commandResult i s.lin = .failed e cls) :
    ∃ t : State, exec i s = .next t ∧ t.out = 0 ∧ t.Shows false e 0 cls ∧ s.Finished t := by
  refine ⟨_, exec_eq_complete i s, ?_⟩
  rw [h]
  exact ⟨State.out_complete .., ⟨rfl, rfl, rfl, rfl⟩, s.finished_complete _⟩

/-- Settles O16: the other two cases of a decode have no INVALID lane. -/
theorem decFailsOnInvalidLane : Obligations.DecFailsOnInvalidLane := by
  intro s i A final m j hform hi hj hinvalid
  obtain ⟨hm, hresult⟩ := decodeForm_spec hform hi
  apply exec_of_failed
  rw [hresult]
  obtain ⟨-, e⟩ | ⟨k, hk⟩ | ⟨hvalid, -⟩ := decodeGroup_cases hm final s.lin
  · exact e
  · exact absurd hinvalid (hk.not_invalid hj)
  · exact absurd hinvalid (hvalid j hj)

/-- Settles O17: the other two cases of a decode are excluded. -/
theorem decFailsOnBadPadding : Obligations.DecFailsOnBadPadding := by
  intro s i A final m hform hi hvalid hreject
  obtain ⟨hm, hresult⟩ := decodeForm_spec hform hi
  apply exec_of_failed
  rw [hresult]
  obtain ⟨⟨j, hj, hinvalid⟩, -⟩ | ⟨k, hk⟩ | ⟨-, -, e⟩ := decodeGroup_cases hm final s.lin
  · exact absurd hinvalid (hvalid j hj)
  · exact absurd hk (hreject k)
  · exact e

end Sys2Proof.Machine
end

section
/-! PROOFS. The statements that ENC and DEC undo one another on a group, both ways (42_codec.md R176). -/

namespace Sys2Proof.Machine

/-! ## The host's names of the commands -/

theorem encodeForm_encodeInstr {A : Family} {r : Nat} (hr : r ≤ A.rawBytes) :
    encodeForm (encodeInstr A r) = some (A, r) := by
  obtain ⟨-, hraw⟩ := Family.sizes_le A
  have htoNat : (BitVec.ofNat 4 r).toNat = r := by
    rw [BitVec.toNat_ofNat]
    omega
  cases A <;> simp only [encodeInstr, encodeForm, htoNat]

theorem wellFormed_encodeInstr {A : Family} {r : Nat} (hpos : 1 ≤ r) (hr : r ≤ A.rawBytes) :
    WellFormed (encodeInstr A r) := by
  cases A <;> simp only [Family.rawBytes] at hr <;> interval_cases r <;> rfl

theorem commandResult_encodeInstr {A : Family} {r : Nat} (hpos : 1 ≤ r) (hr : r ≤ A.rawBytes) (L : Operand) :
    commandResult (encodeInstr A r) L = encodeBlock A r L := by
  obtain ⟨-, -, hresult⟩ := encodeForm_spec (encodeForm_encodeInstr hr) (wellFormed_encodeInstr hpos hr)
  exact hresult L

theorem decodeForm_decodeFinalInstr {A : Family} {m : Nat} (hm : m ≤ A.groupSize) :
    decodeForm (decodeFinalInstr A m) = some (A, true, m) := by
  obtain ⟨hG, -⟩ := Family.sizes_le A
  have htoNat : (BitVec.ofNat 4 m).toNat = m := by
    rw [BitVec.toNat_ofNat]
    omega
  cases A <;> simp only [decodeFinalInstr, decodeForm, htoNat]

theorem wellFormed_decodeFinalInstr {A : Family} {m : Nat} (hpos : 1 ≤ m) (hm : m ≤ A.groupSize) :
    WellFormed (decodeFinalInstr A m) := by
  cases A <;> simp only [Family.groupSize] at hm <;> interval_cases m <;> rfl

theorem commandResult_decodeFinalInstr {A : Family} {m : Nat} (hpos : 1 ≤ m) (hm : m ≤ A.groupSize) (L : Operand) :
    commandResult (decodeFinalInstr A m) L = decodeGroup A true m L := by
  obtain ⟨-, hresult⟩ := decodeForm_spec (decodeForm_decodeFinalInstr hm) (wellFormed_decodeFinalInstr hpos hm)
  exact hresult L

/-! ## Decoding an encoded block -/

theorem classify_symbol_of_lt {A : Family} {i : Byte} (h : i.toNat < 2 ^ A.width) :
    classify A (symbol A i) = (.valid, i) := by
  rw [classify_symbol, lowIndex, Nat.mod_eq_of_lt h, BitVec.ofNat_toNat, BitVec.setWidth_eq]

section
variable {A : Family} {r : Nat} {L M : Operand} (hr : r ≤ A.rawBytes)
  (hM : ∀ j, j < A.groupSize → lane M j = lane (encodeBlock A r L).out j)
include hr hM

/-- The data lanes of an encoded block classify as the block's indices. -/
theorem classify_encodeBlock {j : Nat} (hj : j < dataSymbols A r) :
    classify A (lane M j) = (.valid, blockIndex A r L j) := by
  rw [hM j (hj.trans_le (dataSymbols_le_groupSize hr)), lane_encodeBlock_data hr hj,
    classify_symbol_of_lt (blockIndex_lt A r L j)]

/-- An encoded block is an accepted group, in the final position or full. -/
theorem acceptedGroup_encodeBlock (hpos : 1 ≤ r) {final : Bool} (hfinal : final = false → r = A.rawBytes) :
    AcceptedGroup A final A.groupSize M (dataSymbols A r) := by
  have hlegal : dataSymbols A r ∈ legalCounts A := (mem_legalCounts_iff A _).mpr ⟨r, hpos, hr, rfl⟩
  obtain ⟨htwo, -⟩ := legalCounts_bounds A hlegal
  have hghosts : (blockIndex A r L (dataSymbols A r - 1)).toNat % 2 ^ ghostBits A (dataSymbols A r) = 0 := by
    rw [ghosts_zero_iff_streamBit hlegal, decodedBytes_dataSymbols]
    intro n hle hlt
    rw [streamBit_blockIndex A r L (hlt.trans_le (width_mul_dataSymbols_le hr)), decide_eq_false (by omega),
      Bool.false_and]
  exact {
    le := dataSymbols_le_groupSize hr
    data := fun j hj => by rw [classify_encodeBlock hr hM hj]
    pads := fun j hk hj => (hM j hj).trans (lane_encodeBlock_pad hk hj L)
    legal := hlegal
    whole := fun hf => by rw [hfinal hf, dataSymbols_rawBytes]
    unpadded := fun hlt => absurd hlt (lt_irrefl _)
    ghosts := by rwa [classify_encodeBlock hr hM (by omega)] }

/-- The decoded lanes of an encoded block are the block's: both carry the stream of its indices. -/
theorem lane_decodeGroup_encodeBlock (hpos : 1 ≤ r) {final : Bool} (hfinal : final = false → r = A.rawBytes)
    {j : Nat} (hj : j < r) : lane (decodeGroup A final A.groupSize M).out j = lane L j := by
  refine eq_of_streamBit (m := r) (fun n hn => ?_) hj
  have haccepted := acceptedGroup_encodeBlock hr hM hpos hfinal
  obtain ⟨hbits, -⟩ := ghostBits_spec A (dataSymbols A r)
  rw [decodedBytes_dataSymbols] at hbits
  rw [haccepted.streamBit_decodeGroup le_rfl (by rwa [decodedBytes_dataSymbols]),
    streamBit_congr (fun j hj => congrArg Prod.snd (classify_encodeBlock hr hM hj)) (by omega),
    streamBit_blockIndex A r L (by omega), decide_eq_true hn, Bool.true_and]

end

/-- Settles O21: an encoded block is an accepted final group, and decodes to the block's lanes. -/
theorem groupRoundTrip : Obligations.GroupRoundTrip := by
  intro A r s t u hpos hr ht hu
  have hG : 1 ≤ A.groupSize := by cases A <;> decide
  have hM (j : Nat) (_ : j < A.groupSize) : lane u.lin j = lane (encodeBlock A r s.lin).out j := by
    rw [exec_eq_complete, commandResult_encodeInstr hpos hr] at ht
    obtain rfl := Host.Outcome.next.inj ht
    rw [hu, State.out_complete]
  have hfinal : true = false → r = A.rawBytes := nofun
  have haccepted := acceptedGroup_encodeBlock hr hM hpos hfinal
  have hcount := haccepted.decodeGroup_count le_rfl
  have hbeyond (j : Nat) := haccepted.lane_decodeGroup_beyond le_rfl (j := j)
  rw [decodedBytes_dataSymbols] at hcount hbeyond
  refine ⟨_, exec_eq_complete _ u, ?_⟩
  rw [State.out_complete, commandResult_decodeFinalInstr hG le_rfl]
  exact ⟨haccepted.decodeGroup_err le_rfl, haccepted.decodeGroup_ill le_rfl, hcount,
    fun j => lane_decodeGroup_encodeBlock hr hM hpos hfinal, hbeyond⟩

/-! ## Encoding a decoded group -/

section
variable {A : Family} {final : Bool} {m k : Nat} {L : Operand} (h : AcceptedGroup A final m L k)
  (hm : m ≤ A.groupSize)
include h hm

/-- The indices of the decoded bytes are those of the group: both carry one stream, the ghost bits being zero. -/
theorem AcceptedGroup.blockIndex_decodeGroup {j : Nat} (hj : j < k) :
    blockIndex A (decodedBytes A k) (decodeGroup A final m L).out j = (classify A (lane L j)).2 := by
  obtain ⟨-, -, hraw, -, hsymbols⟩ := legalCounts_bounds A h.legal
  have hwidth := width_mul_dataSymbols_le hraw
  rw [hsymbols] at hwidth
  have hghosts := (ghosts_zero_iff_streamBit h.legal fun j => (classify A (lane L j)).2).mp h.ghosts
  have hmod := toNat_mod_eq_of_streamBit (width := A.width) (m := k)
    (f := blockIndex A (decodedBytes A k) (decodeGroup A final m L).out) (g := fun j => (classify A (lane L j)).2)
    (fun n hn => ?_) hj
  · rw [Nat.mod_eq_of_lt (blockIndex_lt A _ _ j), Nat.mod_eq_of_lt (classify_index_lt A _)] at hmod
    exact BitVec.eq_of_toNat_eq hmod
  · rw [streamBit_blockIndex A _ _ (hn.trans_le hwidth)]
    obtain hlt | hge := Nat.lt_or_ge n (8 * decodedBytes A k)
    · rw [decide_eq_true hlt, Bool.true_and, h.streamBit_decodeGroup hm hlt]
    · rw [decide_eq_false (by omega), Bool.false_and, hghosts n hge hn]

/-- The encoding of the decoded bytes has the lanes of the group. -/
theorem AcceptedGroup.lane_encodeBlock_decodeGroup {j : Nat} (hj : j < m) :
    lane (encodeBlock A (decodedBytes A k) (decodeGroup A final m L).out).out j = lane L j := by
  obtain ⟨-, -, hraw, -, hsymbols⟩ := legalCounts_bounds A h.legal
  obtain hk | hk := Nat.lt_or_ge j k
  · rw [lane_encodeBlock_data hraw (by rwa [hsymbols]), h.blockIndex_decodeGroup hm hk,
      symbol_classify A _ (h.data j hk)]
  · rw [lane_encodeBlock_pad (by rwa [hsymbols]) (hj.trans_le hm), h.pads j hk hj]

end

/-- Settles O22: only an accepted group decodes with ERR OK, and encoding its bytes gives its lanes. -/
theorem acceptedGroupIsCanonical : Obligations.AcceptedGroupIsCanonical := by
  intro A m s t u hpos hm ht herr hu
  rw [exec_eq_complete, commandResult_decodeFinalInstr hpos hm] at ht
  obtain rfl := Host.Outcome.next.inj ht
  rw [State.complete_err] at herr
  obtain ⟨-, e⟩ | ⟨k, hk⟩ | ⟨-, -, e⟩ := decodeGroup_cases hm true s.lin
  · rw [e] at herr
    exact nomatch herr
  · obtain ⟨-, -, hraw, hbytes, hsymbols⟩ := legalCounts_bounds A hk.legal
    refine ⟨_, exec_eq_complete _ u, ?_⟩
    rw [State.out_complete, hu, State.out_complete, State.complete_count, hk.decodeGroup_count hm,
      commandResult_encodeInstr hbytes hraw]
    exact ⟨rfl, fun j => hk.lane_encodeBlock_decodeGroup hm,
      fun j hj hG => lane_encodeBlock_pad (hsymbols.symm ▸ hk.le.trans hj) hG _⟩
  · rw [e] at herr
    exact nomatch herr

end Sys2Proof.Machine
end

section
/-! PROOFS. The units ENC and DEC exercise: every lane over the whole table, and every term of the checks (42_codec.md
R140). -/

namespace Sys2Proof.Machine

theorem compare_mem_probesOf {n j : Nat} (hj : j < n) {comparisons : Nat → List Comparison} {c : Comparison}
    (hc : c ∈ comparisons j) : .compare j c ∈ probesOf n comparisons :=
  List.mem_flatMap.mpr ⟨j, List.mem_range.mpr hj, List.mem_map_of_mem hc⟩

theorem entry_mem_tableComparisons {A : Family} {e : Nat} (h : e < 2 ^ A.width) : .entry e ∈ tableComparisons A :=
  List.mem_map_of_mem (List.mem_range.mpr h)

theorem wordProbed_encode {i : Instr} (hi : WellFormed i) (L : Operand) :
    wordProbed (encode i) L = commandProbed i L := by
  rw [wordProbed, decode_encode hi]

theorem commandProbed_of_encodeForm {i : Instr} {A : Family} {r : Nat} (h : encodeForm i = some (A, r))
    (hi : WellFormed i) (L : Operand) : commandProbed i L = encodeProbed A r L := by
  cases i with
  | enc64 n | enc32 n =>
    cases h
    rw [commandProbed, hi, probedIfLegal, if_pos rfl]
  | clr | sym64 | sym32 | idx64 | idx32 | split64 | split32 | join64 | join32 | dec64 | dec64f _ | dec32 | dec32f _ =>
    exact nomatch h

theorem commandProbed_of_decodeForm {i : Instr} {A : Family} {final : Bool} {m : Nat}
    (h : decodeForm i = some (A, final, m)) (hi : WellFormed i) (L : Operand) :
    commandProbed i L = decodeProbed A final m L := by
  cases i with
  | dec64 | dec32 =>
    cases h
    rfl
  | dec64f n | dec32f n =>
    cases h
    rw [commandProbed, hi, probedIfLegal, if_pos rfl]
  | clr | sym64 | sym32 | idx64 | idx32 | split64 | split32 | join64 | join32 | enc64 _ | enc32 _ => exact nomatch h

/-- A decode evaluates exactly these terms of the checks. -/
theorem check_mem_decodeProbed (A : Family) (final : Bool) (m : Nat) (L : Operand) (c : GroupCheck) :
    .check c ∈ (decodeProbed A final m L).2 ↔
      (∃ j, j < m ∧ (c = .invalid j ∨ c = .leading j ∨ c = .placement j)) ∨
        (∃ n, n ∈ countTargets A final m ∧ c = .count n) ∨ ∃ n, n ∈ legalCounts A ∧ c = .ghost n := by
  rw [decodeProbed_probes]
  simp only [probesOf, List.mem_append, List.mem_flatMap, List.mem_map, List.mem_range, Probe.check.injEq, reduceCtorEq]
  grind

/-- A decode makes every comparison of a classifying lookup in every present lane. -/
theorem compare_mem_decodeProbed {A : Family} {m j : Nat} (hj : j < m) (final : Bool) (L : Operand) {c : Comparison}
    (hc : c ∈ tableComparisons A ++ [.pad]) : .compare j c ∈ (decodeProbed A final m L).2 := by
  rw [decodeProbed_probes]
  exact List.mem_append_left _ (compare_mem_probesOf hj hc)

/-- Settles O50: the units of a legal word are those of its family's encoder or decoder. -/
theorem everyLaneAndCheckIsEvaluated : Obligations.EveryLaneAndCheckIsEvaluated := by
  constructor
  · intro i A r L hform hi j e hj he
    rw [wordProbed_encode hi, commandProbed_of_encodeForm hform hi, encodeProbed_probes]
    exact compare_mem_probesOf hj (entry_mem_tableComparisons he)
  · intro i A final m L hform hi
    rw [wordProbed_encode hi, commandProbed_of_decodeForm hform hi]
    simp only [check_mem_decodeProbed]
    refine ⟨fun j hj => ⟨fun e he => ?_, ?_, ?_, ?_, ?_⟩, fun k hk => ?_, ?_, ?_, ?_⟩
    · exact compare_mem_decodeProbed hj final L (List.mem_append_left _ (entry_mem_tableComparisons he))
    · exact compare_mem_decodeProbed hj final L (List.mem_append_right _ (List.mem_singleton_self _))
    · exact .inl ⟨j, hj, .inl rfl⟩
    · exact .inl ⟨j, hj, .inr (.inl rfl)⟩
    · exact .inl ⟨j, hj, .inr (.inr rfl)⟩
    · exact .inr (.inr ⟨k, hk, rfl⟩)
    · rintro rfl
      exact .inr (.inl ⟨_, List.mem_singleton_self _, rfl⟩)
    · rintro rfl hlt
      exact .inr (.inl ⟨m, by simp [countTargets, hlt.ne], rfl⟩)
    · rintro rfl hG k hk
      exact .inr (.inl ⟨k, by simpa [countTargets, hG] using hk, rfl⟩)

end Sys2Proof.Machine
end

section
/-! PROOFS. The host sequences as functions of the bytes: what the reference encode and decode give from an idle block,
the block's part taken out (42_codec.md R170, R171). -/

namespace Sys2Proof.Machine

/-! ## Pieces of a byte string -/

/-- `n` bytes fill `q` pieces of `d`, the last one perhaps not full: see `fillsPieces_ceilDiv`. -/
def FillsPieces (n d q : Nat) : Prop := n ≤ q * d ∧ q * d < n + d

theorem fillsPieces_ceilDiv (n : Nat) {d : Nat} (hd : 0 < d) : FillsPieces n d (ceilDiv n d) := by
  have hdiv := Nat.div_add_mod' (n + d - 1) d
  have hmod := Nat.mod_lt (n + d - 1) hd
  rw [FillsPieces, ceilDiv]
  omega

theorem ceilDiv_mul (q : Nat) {d : Nat} (hd : 0 < d) : ceilDiv (q * d) d = q := by
  rw [ceilDiv, Nat.add_sub_assoc hd, Nat.mul_comm, Nat.mul_add_div hd, Nat.div_eq_of_lt (by omega), Nat.add_zero]

section
variable {n d q : Nat} (h : FillsPieces n d (q + 1))
include h

theorem FillsPieces.pos : 0 < n := by
  obtain ⟨-, hlt⟩ := h
  rw [Nat.succ_mul] at hlt
  omega

/-- Without the first piece the bytes left fill one piece less. -/
theorem FillsPieces.rest : FillsPieces (n - d) d q := by
  obtain ⟨hle, hlt⟩ := h
  rw [Nat.succ_mul] at hle hlt
  exact ⟨by omega, by omega⟩

/-- The last piece holds all the bytes left. -/
theorem FillsPieces.le_of_last (hq : q = 0) : n ≤ d := by
  obtain ⟨hle, -⟩ := h
  simpa [hq] using hle

/-- Every piece but the last one is full. -/
theorem FillsPieces.full (hq : q ≠ 0) : d ≤ n := by
  obtain ⟨-, hlt⟩ := h
  rw [Nat.succ_mul] at hlt
  have hd : d ≤ q * d := Nat.le_mul_of_pos_left d (Nat.pos_of_ne_zero hq)
  omega

end

theorem Family.sizes_pos (A : Family) : 0 < A.rawBytes ∧ 0 < A.groupSize := by cases A <;> decide

/-! ## Lists of lanes -/

@[simp] theorem length_firstLanes (n : Nat) (v : Operand) : (firstLanes n v).length = n := by simp [firstLanes]

theorem getElem_firstLanes {n j : Nat} (v : Operand) (h : j < (firstLanes n v).length) :
    (firstLanes n v)[j] = lane v j := by simp [firstLanes]

theorem lane_lanesOf {bytes : List Byte} {j : Nat} (h : j < bytes.length) (h8 : j < 8) (fill : Nat → Byte) :
    lane (lanesOf bytes fill) j = bytes[j] :=
  (lane_ofLanes _ h8).trans (List.getD_eq_getElem _ _ h)

theorem lane_lanesOf_firstLanes {n j : Nat} (h : j < n) (h8 : j < 8) (v : Operand) (fill : Nat → Byte) :
    lane (lanesOf (firstLanes n v) fill) j = lane v j := by
  rw [lane_lanesOf (by rwa [length_firstLanes]) h8, getElem_firstLanes]

/-- Bytes put into an operand are read back from one that shares their lanes. -/
theorem firstLanes_eq {bytes : List Byte} (hlen : bytes.length ≤ 8) {fill : Nat → Byte} {v : Operand}
    (h : ∀ j, j < bytes.length → lane v j = lane (lanesOf bytes fill) j) : firstLanes bytes.length v = bytes := by
  refine List.ext_getElem (length_firstLanes _ v) fun j _ hj => ?_
  rw [getElem_firstLanes, h j hj, lane_lanesOf hj (hj.trans_le hlen)]

/-! ## One command -/

theorem wordResult_encode {i : Instr} (hi : WellFormed i) (L : Operand) : wordResult (encode i) L = commandResult i L :=
  wordResult_of_ok (decode_encode hi) L

/-- A command run by the host leaves an idle block that holds its result. -/
theorem hostRun_result {s : State} (hb : s.busy = false) {i : Instr} (hi : WellFormed i) (L : Operand) :
    ∃ t, hostRun i L s = .ok () t ∧ t.busy = false ∧ t.result = commandResult i L := by
  obtain ⟨t, hrun, hbusy, -, -, -, -, hresult⟩ := hostRun_spec hb i L
  exact ⟨t, hrun, hbusy, hresult.trans (wordResult_encode hi L)⟩

/-- WAIT after an accepted issue leaves an idle block that holds the command's result. -/
theorem hostWait_issue (s : State) {i : Instr} (hi : WellFormed i) :
    ∃ t, hostWait (s.issue (encode i)) = .ok () t ∧ t.busy = false ∧ t.cmd = encode i ∧
      t.result = commandResult i s.operand := by
  obtain ⟨seen, hwait⟩ := hostWaitFor_busy Config.LAT (s.issue (encode i)) rfl le_rfl (Nat.succ_pos _)
  exact ⟨_, hwait, rfl, rfl, ((s.issue (encode i)).result_complete _).trans (wordResult_encode hi _)⟩

/-! ## Encode -/

/-- What encode writes for `q` blocks of the bytes left, see `encodeBlocks_eq`. -/
def encodedBytes (A : Family) (fill : Nat → Nat → Byte) : Nat → List Byte → List Byte
  | 0, _ => []
  | q + 1, raw =>
    firstLanes A.groupSize (encodeBlock A (min A.rawBytes raw.length) (lanesOf (raw.take A.rawBytes) (fill q))).out ++
      encodedBytes A fill q (raw.drop A.rawBytes)

theorem length_encodedBytes (A : Family) (fill : Nat → Nat → Byte) (q : Nat) (raw : List Byte) :
    (encodedBytes A fill q raw).length = q * A.groupSize := by
  induction q generalizing raw with
  | zero => simp [encodedBytes]
  | succ q ih => rw [encodedBytes, List.length_append, length_firstLanes, ih, Nat.succ_mul, Nat.add_comm]

/-- The block loop of encode ends with an idle block and its bytes. -/
theorem encodeBlocks_eq (A : Family) (fill : Nat → Nat → Byte) (q : Nat) {raw : List Byte} {s : State}
    (hb : s.busy = false) (hq : FillsPieces raw.length A.rawBytes q) :
    ∃ t, encodeBlocks A fill q raw s = .ok (encodedBytes A fill q raw) t ∧ t.busy = false := by
  induction q generalizing raw s with
  | zero => exact ⟨s, rfl, hb⟩
  | succ q ih =>
    obtain ⟨hRB, -⟩ := Family.sizes_pos A
    have hpos : 1 ≤ min A.rawBytes raw.length := Nat.le_min.mpr ⟨hRB, hq.pos⟩
    have hle : min A.rawBytes raw.length ≤ A.rawBytes := Nat.min_le_left ..
    obtain ⟨s1, hrun, hb1, hresult⟩ := hostRun_result hb (wellFormed_encodeInstr hpos hle)
      (lanesOf (raw.take A.rawBytes) (fill q))
    rw [commandResult_encodeInstr hpos hle] at hresult
    have hout := congrArg Result.out hresult
    obtain ⟨t, hrest, hbt⟩ := ih (s := (s1.answer s1.outLo).answer s1.outHi) hb1 (List.length_drop ▸ hq.rest)
    refine ⟨t, ?_, hbt⟩
    rw [encodeBlocks, hrun, HostRun.bind_ok, hostReadOut_idle hb1, HostRun.bind_ok, hrest, HostRun.bind_ok,
      encodedBytes, ← hout]
    rfl

/-- Encode ends with an idle block and its bytes. -/
theorem hostEncode_eq (A : Family) (fill : Nat → Nat → Byte) {raw : List Byte} {capacity : Nat} {s : State}
    (hb : s.busy = false) (hcap : encodedMaxSize A raw.length ≤ capacity) :
    ∃ t, hostEncode A fill raw capacity s = .ok (encodedBytes A fill (ceilDiv raw.length A.rawBytes) raw) t ∧
      t.busy = false := by
  obtain ⟨hRB, -⟩ := Family.sizes_pos A
  rw [hostEncode, if_neg (by omega)]
  exact encodeBlocks_eq A fill _ hb (fillsPieces_ceilDiv _ hRB)

/-! ## Decode -/

/-- The result of the next group of decode, `q` more to come: the first symbols of `enc`, as a final group when no more
come. -/
def nextGroup (A : Family) (fill : Nat → Nat → Byte) (q : Nat) (enc : List Byte) : Result :=
  decodeGroup A (decide (q = 0)) (min A.groupSize enc.length) (lanesOf (enc.take A.groupSize) (fill q))

/-- The error class and the stage after `q` groups of the symbols left, see `decodeGroups_eq`. -/
def decodedStage (A : Family) (fill : Nat → Nat → Byte) :
    Nat → List Byte → ErrClass → List Byte → ErrClass × List Byte
  | 0, _, err, stage => (err, stage)
  | q + 1, enc, err, stage =>
    decodedStage A fill q (enc.drop A.groupSize) (if err = .ok then (nextGroup A fill q enc).err else err)
      (stage ++ firstLanes (nextGroup A fill q enc).count.toNat (nextGroup A fill q enc).out)

/-- The command the host issues for a group is legal, and its result is that of the group. -/
theorem groupInstr_spec {A : Family} {q : Nat} {enc : List Byte} (hq : FillsPieces enc.length A.groupSize (q + 1))
    (fill : Nat → Nat → Byte) :
    WellFormed (if q = 0 then decodeFinalInstr A enc.length else decodeInstr A) ∧
      commandResult (if q = 0 then decodeFinalInstr A enc.length else decodeInstr A)
        (lanesOf (enc.take A.groupSize) (fill q)) = nextGroup A fill q enc := by
  rw [nextGroup]
  by_cases h : q = 0
  · have hle := hq.le_of_last h
    rw [if_pos h, decide_eq_true h, Nat.min_eq_right hle]
    exact ⟨wellFormed_decodeFinalInstr hq.pos hle, commandResult_decodeFinalInstr hq.pos hle _⟩
  · rw [if_neg h, decide_eq_false h, Nat.min_eq_left (hq.full h)]
    cases A <;> exact ⟨rfl, rfl⟩

/-- The group loop of decode ends with an idle block, its error class and its stage. -/
theorem decodeGroups_eq (A : Family) (fill : Nat → Nat → Byte) (q : Nat) {enc : List Byte} (err : ErrClass)
    (stage : List Byte) {s : State} (hb : s.busy = false) (hq : FillsPieces enc.length A.groupSize q) :
    ∃ t, decodeGroups A fill q enc err stage s = .ok (decodedStage A fill q enc err stage) t ∧ t.busy = false := by
  induction q generalizing enc err stage s with
  | zero => exact ⟨s, rfl, hb⟩
  | succ q ih =>
    obtain ⟨hwf, hcommand⟩ := groupInstr_spec hq fill
    obtain ⟨s1, hrun, hb1, hresult⟩ := hostRun_result hb hwf (lanesOf (enc.take A.groupSize) (fill q))
    rw [hcommand] at hresult
    have herr : s1.err = _ := congrArg Result.err hresult
    have hcount : s1.count = _ := congrArg Result.count hresult
    have hout : s1.out = _ := congrArg Result.out hresult
    simp only [decodeGroups, hrun, HostRun.bind_ok, hostRead_idle hb1, State.readReg_status]
    rw [hostReadOut_idle (by exact hb1), HostRun.bind_ok, statusWord_err, statusWord_count, ErrClass.ofCode_code,
      State.out_answer, herr, hcount, hout]
    exact ih _ _ (by exact hb1) (List.length_drop ▸ hq.rest)

theorem commandResult_clr_out (L : Operand) : (commandResult .clr L).out = 0 := ofLanes_zero

/-- Decode of some bytes, of a length the host takes, ends with a scrubbed idle block, and gives the stage out where no
group failed. -/
theorem hostDecode_eq (A : Family) (fill : Nat → Nat → Byte) {requirePad : Bool} {enc : List Byte} {capacity : Nat}
    {s : State} (hb : s.busy = false) (hcap : decodedMaxSize A enc.length ≤ capacity) (henc : enc ≠ [])
    (hpad : requirePad = false ∨ enc.length % A.groupSize = 0) {err : ErrClass} {stage : List Byte}
    (hstage : decodedStage A fill (ceilDiv enc.length A.groupSize) enc .ok [] = (err, stage)) :
    ∃ t, hostDecode A fill requirePad enc capacity s = .ok (if err = .ok then .written stage else .error err) t ∧
      t.busy = false ∧ t.out = 0 ∧ t.cmd = encode .clr := by
  obtain ⟨-, hG⟩ := Family.sizes_pos A
  obtain ⟨s1, hgroups, hb1⟩ := decodeGroups_eq A fill _ .ok [] hb (fillsPieces_ceilDiv enc.length hG)
  obtain ⟨t, hwait, hbt, hcmd, hresult⟩ := hostWait_issue s1 (i := .clr) rfl
  have htaken : ¬(requirePad = true ∧ enc.length % A.groupSize ≠ 0) := by
    rintro ⟨rfl, hlen⟩
    exact hpad.elim nofun hlen
  refine ⟨t, ?_, hbt, (congrArg Result.out hresult).trans (commandResult_clr_out _), hcmd⟩
  rw [hostDecode, if_neg (by omega), if_neg henc, if_neg htaken, hgroups, HostRun.bind_ok, hostIssue_idle hb1,
    HostRun.bind_ok, hwait, HostRun.bind_ok, hstage]

end Sys2Proof.Machine
end

section
/-! PROOFS. The statements about the host sequences: sizes, the scrub, and the round trip (42_codec.md R170 to R176). -/

namespace Sys2Proof.Machine

/-- Settles O47: every block writes a whole group. -/
theorem hostEncodeWritesExactSize : Obligations.HostEncodeWritesExactSize := by
  intro A fill raw capacity s hb hcap
  obtain ⟨t, hrun, hbt⟩ := hostEncode_eq A fill hb hcap
  exact ⟨_, t, hrun, hbt, length_encodedBytes A fill _ raw⟩

/-- A group decodes to no more bits than its symbols have. -/
theorem decodeGroup_count_le {A : Family} {m : Nat} (hm : m ≤ A.groupSize) (final : Bool) (L : Operand) :
    8 * (decodeGroup A final m L).count.toNat ≤ A.width * m := by
  obtain ⟨-, e⟩ | ⟨k, hk⟩ | ⟨-, -, e⟩ := decodeGroup_cases hm final L
  · simp [e]
  · obtain ⟨hbits, -⟩ := ghostBits_spec A k
    have hle : A.width * k ≤ A.width * m := Nat.mul_le_mul_left _ hk.le
    rw [hk.decodeGroup_count hm]
    omega
  · simp [e]

/-- The stage grows by no more bits than the symbols have, whether or not a group fails. -/
theorem length_decodedStage_le (A : Family) (fill : Nat → Nat → Byte) (q : Nat) (enc : List Byte) (err : ErrClass)
    (stage : List Byte) :
    8 * (decodedStage A fill q enc err stage).2.length ≤ 8 * stage.length + A.width * enc.length := by
  induction q generalizing enc err stage with
  | zero => exact Nat.le_add_right ..
  | succ q ih =>
    have hrest := ih (enc.drop A.groupSize) (if err = .ok then (nextGroup A fill q enc).err else err)
      (stage ++ firstLanes (nextGroup A fill q enc).count.toNat (nextGroup A fill q enc).out)
    have hgroup := decodeGroup_count_le (Nat.min_le_left A.groupSize enc.length) (decide (q = 0))
      (lanesOf (enc.take A.groupSize) (fill q))
    rw [← nextGroup] at hgroup
    rw [List.length_append, length_firstLanes, List.length_drop] at hrest
    have hsplit : A.width * enc.length =
        A.width * min A.groupSize enc.length + A.width * (enc.length - A.groupSize) := by
      rw [← Nat.mul_add]
      congr 1
      omega
    rw [decodedStage]
    omega

/-- Settles O48: the stage is bounded by the bits of the symbols, and the scrub ends the sequence. -/
theorem hostDecodeEndsScrubbed : Obligations.HostDecodeEndsScrubbed := by
  intro A fill requirePad enc capacity s hb hcap
  refine ⟨fun henc => ?_, fun hpad hlen => ?_, fun henc hpad => ?_⟩
  · rw [hostDecode, if_neg (by omega), if_pos henc]
  · have henc : enc ≠ [] := by
      rintro rfl
      exact hlen (Nat.zero_mod _)
    rw [hostDecode, if_neg (by omega), if_neg henc, if_pos ⟨hpad, hlen⟩]
  · have hsize := length_decodedStage_le A fill (ceilDiv enc.length A.groupSize) enc .ok []
    obtain ⟨t, hrun, hbt, hout, hcmd⟩ := hostDecode_eq A fill hb hcap henc hpad rfl
    refine ⟨_, t, hrun, hbt, hout, hcmd, fun bytes hbytes => ?_⟩
    split at hbytes
    · obtain rfl := CallResult.written.inj hbytes
      rw [List.length_nil] at hsize
      rw [decodedMaxSize]
      omega
    · exact nomatch hbytes

/-- Decoding the groups of encoded bytes stages the bytes, block by block. -/
theorem decodedStage_encodedBytes (A : Family) (fill fill' : Nat → Nat → Byte) (q : Nat) {raw : List Byte}
    (hq : FillsPieces raw.length A.rawBytes q) (stage : List Byte) :
    decodedStage A fill' q (encodedBytes A fill q raw) .ok stage = (.ok, stage ++ raw) := by
  induction q generalizing raw stage with
  | zero =>
    obtain ⟨hlen, -⟩ := hq
    rw [Nat.zero_mul, Nat.le_zero, List.length_eq_zero_iff] at hlen
    rw [decodedStage, hlen, List.append_nil]
  | succ q ih =>
    obtain ⟨hRB, -⟩ := Family.sizes_pos A
    obtain ⟨hG, hraw⟩ := Family.sizes_le A
    have hpos : 1 ≤ min A.rawBytes raw.length := Nat.le_min.mpr ⟨hRB, hq.pos⟩
    have hle : min A.rawBytes raw.length ≤ A.rawBytes := Nat.min_le_left ..
    have hfull : decide (q = 0) = false → min A.rawBytes raw.length = A.rawBytes := fun h =>
      Nat.min_eq_left (hq.full (of_decide_eq_false h))
    rw [decodedStage, nextGroup, encodedBytes, List.take_left' (length_firstLanes ..),
      List.drop_left' (length_firstLanes ..), List.length_append, length_firstLanes,
      Nat.min_eq_left (Nat.le_add_right ..)]
    have hM (j : Nat) (hj : j < A.groupSize) := lane_lanesOf_firstLanes hj (hj.trans_le hG)
      (encodeBlock A (min A.rawBytes raw.length) (lanesOf (raw.take A.rawBytes) (fill q))).out (fill' q)
    have haccepted := acceptedGroup_encodeBlock hle hM hpos hfull
    have hblock := firstLanes_eq (bytes := raw.take A.rawBytes) (by rw [List.length_take]; omega) fun j hj =>
      lane_decodeGroup_encodeBlock hle hM hpos hfull (by rwa [List.length_take] at hj)
    rw [List.length_take] at hblock
    rw [haccepted.decodeGroup_err le_rfl, haccepted.decodeGroup_count le_rfl, decodedBytes_dataSymbols, if_pos rfl,
      hblock, ih (List.length_drop ▸ hq.rest), List.append_assoc, List.take_append_drop]

/-- Settles O49: no bytes are encoded to none, and the groups of the others decode to them. -/
theorem hostRoundTrip : Obligations.HostRoundTrip := by
  intro A fill fill' requirePad raw cap cap' s hb hcap
  obtain ⟨hRB, hG⟩ := Family.sizes_pos A
  have hlen := length_encodedBytes A fill (ceilDiv raw.length A.rawBytes) raw
  have hq := fillsPieces_ceilDiv raw.length hRB
  obtain ⟨t, hrun, hbt⟩ := hostEncode_eq A fill hb hcap
  refine ⟨_, t, hrun, fun hcap' => ?_⟩
  have hstage := decodedStage_encodedBytes A fill fill' _ hq []
  generalize encodedBytes A fill (ceilDiv raw.length A.rawBytes) raw = enc at *
  generalize ceilDiv raw.length A.rawBytes = q at *
  by_cases henc : enc = []
  · rw [henc, List.length_nil] at hlen
    obtain rfl : q = 0 := (Nat.mul_eq_zero.mp hlen.symm).resolve_right hG.ne'
    have hraw : [] = raw := congrArg Prod.snd hstage
    exact ⟨t, by rw [hostDecode, if_neg (by omega), if_pos henc, ← hraw]⟩
  · have hwhole : enc.length % A.groupSize = 0 := by rw [hlen, Nat.mul_mod_left]
    rw [← ceilDiv_mul q hG, ← hlen] at hstage
    obtain ⟨u, hdec, -⟩ := hostDecode_eq A fill' hbt hcap' henc (.inr hwhole) hstage
    exact ⟨u, hdec⟩

end Sys2Proof.Machine
end

section
/-! PROOFS. A cycle whose access, if any, is defined goes on (60_exceptions.md R182). -/

namespace Sys2Proof.Machine

/-- In reset a defined access answers. -/
theorem resetCycle_defined {c : PortCycle} (h : c.Defined) (s : State) : ∃ t, resetCycle c.access s = .next t := by
  unfold resetCycle
  split
  · exact ⟨_, rfl⟩
  · next off size ha => exact ⟨_, definedAccess_of_defined (h _ ha) _⟩
  · next off size v ha => exact ⟨_, definedAccess_of_defined (h _ ha) _⟩

/-- A cycle of reset is its access alone, whatever is in flight (70_reset_and_hazards.md R200). -/
theorem clockCycle_reset {c : PortCycle} (hr : c.reset = true) (s : State) :
    clockCycle c s = resetCycle c.access s :=
  if_pos hr

/-- Settles O37: the access answers, in and out of reset, and outside reset the engine goes on from every state it
leaves, an illegal word included. -/
theorem definedCyclesNeverStop : Obligations.DefinedCyclesNeverStop := by
  intro s hd
  have hd : s.nextCycle.Defined := hd
  rw [step_eq]
  cases hr : s.nextCycle.reset with
  | true =>
    rw [clockCycle_reset hr]
    exact resetCycle_defined hd s.taken
  | false =>
    obtain ⟨u, hu⟩ := portAccess_defined hd s.taken
    exact ⟨_, clockCycle_eq_engineEnd hr hu⟩

end Sys2Proof.Machine
end

section
/-! PROOFS. Data never reaches control: every operation of a cycle keeps two states that differ in data alone such
(70_reset_and_hazards.md R201). -/

namespace Sys2Proof.Machine

/-! ## The register updates -/

theorem State.SameControl.answer {s t : State} (h : s.SameControl t) (v w : Word) :
    (s.answer v).SameControl (t.answer w) := { h with }

theorem State.SameControl.clearRegisters {s t : State} (h : s.SameControl t) :
    s.clearRegisters.SameControl t.clearRegisters := ⟨rfl, rfl, rfl, rfl, rfl, rfl, h.port⟩

theorem State.SameControl.issue {s t : State} (h : s.SameControl t) (v : Word) : (s.issue v).SameControl (t.issue v) :=
  ⟨rfl, rfl, rfl, rfl, rfl, rfl, h.port⟩

theorem State.SameControl.dropIssue {s t : State} (h : s.SameControl t) : s.dropIssue.SameControl t.dropIssue :=
  { h with ovr := rfl }

theorem State.SameControl.complete {s t : State} (h : s.SameControl t) (q r : Result) :
    (s.complete q).SameControl (t.complete r) := { h with busy := rfl, done := rfl, cnt := rfl }

theorem State.SameControl.countDown {s t : State} (h : s.SameControl t) : s.countDown.SameControl t.countDown :=
  { h with cnt := congrArg (· - 1) h.cnt }

theorem State.SameControl.withOperand {s t : State} (h : s.SameControl t) (lo hi lo' hi' : Word) :
    State.SameControl { s with inLo := lo, inHi := hi } { t with inLo := lo', inHi := hi' } := { h with }

/-- A write to a register other than CMD changes the operand at most (20_memory.md R44). -/
theorem writeReg_of_ne_cmd {off : Nat} (h0 : off ≠ 0) (s : State) (v : Word) :
    ∃ lo hi, s.writeReg off v = { s with inLo := lo, inHi := hi } := by
  obtain ⟨h, _⟩ | ⟨h, _⟩ | ⟨_, e⟩ | ⟨_, e⟩ | ⟨_, _, _, e⟩ := writeReg_cases s off v
  · exact absurd h h0
  · exact absurd h h0
  · exact ⟨v, s.inHi, e⟩
  · exact ⟨s.inLo, v, e⟩
  · exact ⟨s.inLo, s.inHi, e⟩

theorem writeReg_cmd (s : State) (v : Word) : s.writeReg 0 v = if s.busy then s.dropIssue else s.issue v := rfl

theorem State.SameControl.writeReg {s t : State} (h : s.SameControl t) {off : Nat} {v w : Word}
    (hvw : off = 0 → v = w) : (s.writeReg off v).SameControl (t.writeReg off w) := by
  by_cases h0 : off = 0
  · obtain rfl := hvw h0
    rw [h0, writeReg_cmd, writeReg_cmd, ← h.busy]
    split_ifs
    · exact h.dropIssue
    · exact h.issue v
  · obtain ⟨lo, hi, es⟩ := writeReg_of_ne_cmd h0 s v
    obtain ⟨lo', hi', et⟩ := writeReg_of_ne_cmd h0 t w
    rw [es, et]
    exact h.withOperand lo hi lo' hi'

/-- The engine completes or counts down by CNT alone, whatever the results are. -/
theorem State.SameControl.engineEnd {s t : State} (h : s.SameControl t) (busy : Bool) :
    (s.engineEnd busy).SameControl (t.engineEnd busy) := by
  unfold State.engineEnd
  rw [← h.cnt]
  split_ifs
  · exact h.complete _ _
  · exact h.countDown
  · exact h

/-! ## The inputs of a cycle -/

/-- Two ports of one shape present next cycles of one shape, and the cycles after them are of one shape. -/
theorem sameShape_headD_tail {p q : List PortCycle} (h : List.Forall₂ PortCycle.SameShape p q) :
    (p.headD idleCycle).SameShape (q.headD idleCycle) ∧ List.Forall₂ PortCycle.SameShape p.tail q.tail := by
  cases h with
  | nil => exact ⟨⟨rfl, trivial⟩, .nil⟩
  | cons hc hrest => exact ⟨hc, hrest⟩

theorem State.SameControl.nextCycle {s t : State} (h : s.SameControl t) : s.nextCycle.SameShape t.nextCycle :=
  (sameShape_headD_tail h.port).1

theorem State.SameControl.taken {s t : State} (h : s.SameControl t) : s.taken.SameControl t.taken :=
  { h with port := (sameShape_headD_tail h.port).2 }

/-- The accesses of two cycles of one shape. -/
theorem PortCycle.SameShape.access_cases {c d : PortCycle} (h : c.SameShape d) :
    (c.access = none ∧ d.access = none) ∨
      (∃ off size, c.access = some (.read off size) ∧ d.access = some (.read off size)) ∨
      (∃ off size v w, c.access = some (.write off size v) ∧ d.access = some (.write off size w) ∧
        (off = 0 → v = w)) := by
  obtain ⟨rc, a⟩ := c
  obtain ⟨rd, b⟩ := d
  obtain ⟨-, h⟩ := h
  match a, b, h with
  | none, none, _ => exact .inl ⟨rfl, rfl⟩
  | some (.read off size), some (.read _ _), ⟨rfl, rfl⟩ => exact .inr (.inl ⟨off, size, rfl, rfl⟩)
  | some (.write off size v), some (.write _ _ w), ⟨rfl, rfl, hvw⟩ =>
    exact .inr (.inr ⟨off, size, v, w, rfl, rfl, hvw⟩)

/-! ## One cycle -/

/-- Two outcomes that differ at most in the data of the next state. -/
inductive SameOutcome : Host.Outcome State Fault Refusal → Host.Outcome State Fault Refusal → Prop
  | next {s t : State} (h : s.SameControl t) : SameOutcome (.next s) (.next t)
  | fault (f : Fault) : SameOutcome (.fault f) (.fault f)
  | refused (r : Refusal) : SameOutcome (.refused r) (.refused r)

theorem definedAccess_sameOutcome {s t : State} (h : s.SameControl t) (off size : Nat) :
    SameOutcome (definedAccess off size s) (definedAccess off size t) := by
  unfold definedAccess
  split_ifs
  · exact .fault _
  · exact .next h
  · exact .refused _

theorem portAccess_sameOutcome {c d : PortCycle} (hcd : c.SameShape d) {s t : State} (h : s.SameControl t) :
    SameOutcome (portAccess c.access s) (portAccess d.access t) := by
  obtain ⟨ec, ed⟩ | ⟨off, size, ec, ed⟩ | ⟨off, size, v, w, ec, ed, hvw⟩ := hcd.access_cases <;> rw [ec, ed]
  · exact .next h
  · exact definedAccess_sameOutcome (h.answer _ _) off size
  · exact definedAccess_sameOutcome (h.writeReg hvw) off size

theorem resetCycle_sameOutcome {c d : PortCycle} (hcd : c.SameShape d) {s t : State} (h : s.SameControl t) :
    SameOutcome (resetCycle c.access s) (resetCycle d.access t) := by
  obtain ⟨ec, ed⟩ | ⟨off, size, ec, ed⟩ | ⟨off, size, v, w, ec, ed, -⟩ := hcd.access_cases <;> rw [ec, ed]
  · exact .next h.clearRegisters
  · exact definedAccess_sameOutcome (h.clearRegisters.answer 0 0) off size
  · exact definedAccess_sameOutcome h.clearRegisters off size

theorem clockCycle_sameOutcome {c d : PortCycle} (hcd : c.SameShape d) {s t : State} (h : s.SameControl t) :
    SameOutcome (clockCycle c s) (clockCycle d t) := by
  cases hr : c.reset with
  | true =>
    rw [clockCycle_reset hr, clockCycle_reset (hcd.1 ▸ hr)]
    exact resetCycle_sameOutcome hcd h
  | false =>
    have hrd : d.reset = false := hcd.1 ▸ hr
    have haccess := portAccess_sameOutcome hcd h
    generalize hs : portAccess c.access s = x, ht : portAccess d.access t = y at haccess
    cases haccess with
    | next huv =>
      rw [clockCycle_eq_engineEnd hr hs, clockCycle_eq_engineEnd hrd ht, ← h.busy]
      exact .next (huv.engineEnd s.busy)
    | fault f => simpa [clockCycle, hr, hrd, hs, ht] using SameOutcome.fault f
    | refused r => simpa [clockCycle, hr, hrd, hs, ht] using SameOutcome.refused r

theorem step_sameOutcome {s t : State} (h : s.SameControl t) : SameOutcome (step s) (step t) := by
  rw [step_eq, step_eq]
  exact clockCycle_sameOutcome h.nextCycle h.taken

/-- Settles O41: the two steps have outcomes of one kind, which agree on all but data. -/
theorem controlDoesNotDependOnData : Obligations.ControlDoesNotDependOnData := by
  intro s t h
  have hstep := step_sameOutcome h
  generalize step s = x, step t = y at hstep
  cases hstep with
  | next huv => exact ⟨by rintro _ ⟨⟩; exact ⟨_, rfl, huv⟩, nofun, nofun⟩
  | fault f => exact ⟨nofun, fun _ e => e, nofun⟩
  | refused r => exact ⟨nofun, nofun, fun _ e => e⟩

end Sys2Proof.Machine
end

section
/-! PROOFS. A command in flight: BUSY, DONE and the results cycle by cycle, whatever defined accesses the host makes
(70_reset_and_hazards.md R202). -/

namespace Sys2Proof.Machine

/-- The cycles the port lists carry no reset, and defined accesses alone. -/
def State.Undisturbed (s : State) : Prop := ∀ c, c ∈ s.port → c.reset = false ∧ c.Defined

theorem State.Undisturbed.nextCycle {s : State} (h : s.Undisturbed) :
    s.nextCycle.reset = false ∧ s.nextCycle.Defined := by
  cases hp : s.port with
  | nil =>
    have hidle : s.nextCycle = idleCycle := by rw [State.nextCycle, hp, List.headD_nil]
    exact hidle ▸ ⟨rfl, idleCycle_defined⟩
  | cons c rest =>
    have hc : s.nextCycle = c := by rw [State.nextCycle, hp, List.headD_cons]
    exact hc ▸ h c (hp ▸ List.mem_cons_self)

/-- A cycle with a command in flight ends in the completion of the word, or in a state that differs in the host's side
and in CNT, one less, alone. -/
theorem step_inFlight {s : State} (hb : s.busy = true) (h : s.Undisturbed) :
    ∃ t, step s = .next t ∧
      (s.cnt ≤ 1 → t.busy = false ∧ t.done = true ∧ t.result = wordResult s.lcmd s.lin) ∧
      (1 < s.cnt → t.busy = true ∧ t.done = s.done ∧ t.lcmd = s.lcmd ∧ t.lin = s.lin ∧ t.cnt = s.cnt - 1 ∧
        t.result = s.result ∧ t.Undisturbed) := by
  obtain ⟨hr, hd⟩ := h.nextCycle
  obtain ⟨u, hu⟩ := portAccess_defined hd s.taken
  by_cases hc : s.cnt ≤ 1
  · exact ⟨_, step_completes hb hc hr hu, fun _ => ⟨rfl, rfl, u.result_complete _⟩,
      fun h1 => absurd hc (by omega)⟩
  · obtain ⟨-, hbusy, hdone, hlcmd, hlin, hcnt, hresult, hport⟩ := portAccess_busy hu hb
    have hstep : step s = .next u.countDown := by
      rw [step_eq, clockCycle_busy hr (s := s.taken) hb hu, if_neg (hcnt ▸ hc)]
    have htail : u.countDown.port = s.port.tail := by rw [State.countDown_port, hport, State.taken_port]
    have hrest : u.countDown.Undisturbed := fun c hm => h c (List.mem_of_mem_tail (htail ▸ hm))
    exact ⟨_, hstep, fun h1 => absurd h1 hc, fun _ =>
      ⟨hbusy, hdone, hlcmd, hlin, congrArg (· - 1) hcnt, hresult, hrest⟩⟩

/-- A command with CNT cycles left runs for them, the last of which completes it. -/
theorem run_inFlight (n : Nat) {s : State} (hb : s.busy = true) (h : s.Undisturbed) (hpos : 1 ≤ s.cnt)
    (hn : n ≤ s.cnt) :
    ∃ t : State, core.run n s = .next t ∧
      (n < s.cnt → t.busy = true ∧ t.done = s.done ∧ t.result = s.result) ∧
      (n = s.cnt → t.busy = false ∧ t.done = true ∧ t.result = wordResult s.lcmd s.lin) := by
  induction n generalizing s with
  | zero => exact ⟨s, rfl, fun _ => ⟨hb, rfl, rfl⟩, fun h0 => absurd h0 (by omega)⟩
  | succ n ih =>
    obtain ⟨u, hstep, hlast, hmore⟩ := step_inFlight hb h
    rw [run_next core n hstep]
    by_cases hc : s.cnt ≤ 1
    · obtain rfl : n = 0 := by omega
      exact ⟨u, rfl, fun h1 => absurd h1 (by omega), fun _ => hlast hc⟩
    · obtain ⟨hbusy, hdone, hlcmd, hlin, hcnt, hresult, hrest⟩ := hmore (by omega)
      obtain ⟨t, hrun, hbefore, hend⟩ := ih hbusy hrest (by omega) (by omega)
      rw [hdone, hresult] at hbefore
      rw [hlcmd, hlin] at hend
      exact ⟨t, hrun, fun h1 => hbefore (by omega), fun h1 => hend (by omega)⟩

/-- Settles O34: the issue leaves the word in flight with LAT cycles left. -/
theorem uniformLatency : Obligations.UniformLatency := by
  intro s v rest hb hport hrest n hn
  rw [Nat.add_comm, run_next core n (acceptedIssueLatches s rest v hport hb)]
  exact run_inFlight n rfl hrest (Nat.succ_pos Config.latMinusOne) hn

end Sys2Proof.Machine
end

section
/-! PROOFS. What a cycle of reset leaves (70_reset_and_hazards.md R200). -/

namespace Sys2Proof.Machine

/-- Settles O36: a cycle of reset clears the registers whatever they hold, and a defined access of it answers. -/
theorem resetCycleClearsEverything : Obligations.ResetCycleClearsEverything := by
  intro s rest
  refine ⟨?_, fun off hlt hal => ⟨?_, fun v => ?_⟩⟩ <;> rw [step_cons, clockCycle_reset rfl]
  · rfl
  · exact definedAccess_of_defined ⟨hlt, rfl, hal⟩ _
  · exact definedAccess_of_defined ⟨hlt, rfl, hal⟩ _

end Sys2Proof.Machine
end

section
/-! PROOFS. The command terms that stand for no word (30_encoding.md R60, log 11). -/

namespace Sys2Proof.Machine

/-- Only the four commands with a count can be ill-formed. -/
theorem commandResult_of_illFormed {i : Instr} (h : ¬WellFormed i) (L : Operand) : commandResult i L = .illegal := by
  cases i with
  | enc64 _ | enc32 _ | dec64f _ | dec32f _ =>
    rw [commandResult, Bool.eq_false_of_not_eq_true h, Result.ofLegal_false]
  | clr | sym64 | sym32 | idx64 | idx32 | split64 | split32 | join64 | join32 | dec64 | dec32 => exact absurd rfl h

/-- Settles O19: the term completes with its result, and that of an ill-formed one is `Result.illegal`. -/
theorem illFormedTermsCompleteAsIllegal : Obligations.IllFormedTermsCompleteAsIllegal := by
  intro i s hi
  refine ⟨_, exec_eq_complete i s, ?_⟩
  rw [commandResult_of_illFormed hi]
  exact ⟨s.out_complete _, ⟨rfl, rfl, rfl, rfl⟩, s.finished_complete _⟩

end Sys2Proof.Machine
end
